-- ==== Sys2Proof/Word.lean ====
section
/-! DEFINITION. Word.lean: the word types of the part (spec/03_architected_state.md, R51, R71). -/

namespace Sys2Proof

/-- One byte of memory, of a slab or of the scratchpad. -/
abbrev Byte := BitVec 8

/-- A scalar register or a system register (R51, R71). -/
abbrev Word := BitVec 64

/-- One word of a bundle (R78). -/
abbrev Word32 := BitVec 32

end Sys2Proof
end

