-- ==== Sys2Proof/Syntax.lean ====
section
/-! DEFINITION. Syntax.lean: the ONE inductive of steps, Instr, one constructor for each row of
spec/opcode_table.json, and the operand types its constructors carry. The rows are the part's steps
(spec/95_what_each_step_holds.md): the Ferlan instructions with the fields of their slot and extension
words, the three bundle steps, and the device's events with the data that arrives with each. -/

namespace Sys2Proof

/-! ### Operand names (R82) -/

/-- A scalar register s0 to s63. -/
abbrev SReg := BitVec 6
/-- A slab field v0 to v63, resolved under R53. -/
abbrev VField := BitVec 6
/-- A predicate p0 to p15. -/
abbrev PReg := BitVec 4
/-- A mask register k0 to k7. -/
abbrev KReg := BitVec 3
/-- An index register ix0 to ix3. -/
abbrev IxReg := BitVec 2
/-- A descriptor register td0 to td15. -/
abbrev TdReg := BitVec 4
/-- A physical core of the package: bit 6 the compute die, bits 5 to 0 the physical core. -/
abbrev CoreId := BitVec 7
/-- A hardware context of a core (R23). -/
abbrev CtxId := BitVec 2

/-- The immediate of an immediate form: bits [7:0], or one surrendered word (R85, R134). -/
inductive Imm where
  | short (v : BitVec 8)
  | long (v : Word32)
deriving DecidableEq, Repr

/-- The immediate of MOVI: short, one word, or two words (R135). -/
inductive ImmWide where
  | short (v : BitVec 8)
  | long (v : Word32)
  | wide (v : Word)
deriving DecidableEq, Repr

/-- The second operand of PCMPI: the short immediate, or the optional word's U bit and 31-bit immediate (R137). -/
inductive CmpImm where
  | short (v : BitVec 8)
  | word (u : Bool) (v : BitVec 31)
deriving DecidableEq, Repr

/-- Body length of LOOP and LOOPP in words: the B field, or the optional word (R150). -/
inductive LoopLen where
  | short (l : BitVec 6)
  | long (l : BitVec 13)
deriving DecidableEq, Repr

/-- Conditions of PCMP and PCMPI (R136). -/
inductive Cond where
  | eq | ne | lt | le
deriving DecidableEq, Repr

/-- Conditions of VCMP (R169). -/
inductive VCond where
  | eq | ne | lt | le | gt | ge
deriving DecidableEq, Repr

/-- Rounding modes (R103). -/
inductive RM where
  | rne | rtz | rdn | rup
deriving DecidableEq, Repr

/-- Element types of VSHAPE.ETYPE (R58). -/
inductive ElemTy where
  | i8 | i16 | i32 | n8 | n16 | n32 | bf16 | fp32
deriving DecidableEq, Repr

/-- Tapered formats (R107). -/
inductive TapFmt where
  | t6 | t8 | t12
deriving DecidableEq, Repr

/-- Destination type of VCVT (R181). -/
inductive CvtDst where
  | plain (t : ElemTy)
  | tap (t : TapFmt)
deriving DecidableEq, Repr

/-- Source type of VCVT (R181): VSHAPE.ETYPE or a tapered format. -/
inductive CvtSrc where
  | shape
  | tap (t : TapFmt)
deriving DecidableEq, Repr

/-- Destination type of VREQ (R182). -/
inductive ReqDst where
  | i8 | n8
  | tap (t : TapFmt)
deriving DecidableEq, Repr

/-- Source type of VREQ (R182). -/
inductive ReqSrc where
  | shape | i8
  | tap (t : TapFmt)
deriving DecidableEq, Repr

/-- Operations of VRED (R183). -/
inductive RedOp where
  | sum | min | max | and | or | xor
deriving DecidableEq, Repr

/-- Axes of VRED (R183). -/
inductive RedAxis where
  | row | col | all
deriving DecidableEq, Repr

/-- Operations of VSCAN (R184). -/
inductive ScanOp where
  | sum | min | max
deriving DecidableEq, Repr

/-- The six scopes of FENCE, AMO and CAS (R226, R281). -/
inductive Scope where
  | ctx | core | die | pkg | fab | sys
deriving DecidableEq, Repr

/-- Operations of AMO (R228). -/
inductive AmoOp where
  | add | and | or | xor | min | max | minu | maxu | swap
deriving DecidableEq, Repr

/-! ### Data that comes with the device's events -/

/-- Where a request stands: at the slice of the requester's die or at the home (R301). -/
inductive Stop where
  | slice | home
deriving DecidableEq, Repr

/-- Kinds of request that a FWD, PREQ or PACT carries (R300). -/
inductive ReqKind where
  | rd | rdx | upg
deriving DecidableEq, Repr

/-- A holder of tokens that a message can be sent to (R295). -/
inductive Holder where
  | l1d (c : CoreId)
  | slice (die : Bool)
  | home
deriving DecidableEq, Repr

/-- A requester number RQ (R299): 0 to 511 for contexts (die, physical core, context), 512 to 514 as the
table there gives. -/
abbrev Rq := BitVec 10

/-- The fields of a request message (R300). -/
structure Req where
  line : Nat
  rq : Rq
  kind : ReqKind
  mask : BitVec 64
  cmt : Bool
deriving DecidableEq, Repr

/-- The fields of a TOK message (R300). lender names the core whose region-access-table entry lent the
token when Y = 1. -/
structure TokMsg where
  line : Nat
  rq : Rq
  count : Nat
  owner : Bool
  dirty : Bool
  data : Bool
  lender : Option CoreId
deriving DecidableEq, Repr

/-- A host command's ring and TAG (R339). -/
structure Cmd where
  ring : BitVec 2
  tag : BitVec 16
deriving DecidableEq, Repr

/-- RATE and DEPTH of one token bucket (R313). -/
structure BucketAttr where
  rate : BitVec 32
  depth : BitVec 39
deriving DecidableEq, Repr

/-- The attributes QUEUE_CREATE gives a launch queue (R313). -/
structure QueueAttrs where
  timed : Bool
  prio : BitVec 6
  cap : BitVec 16
  cyc : BucketAttr
  byt : BucketAttr
  en : BucketAttr
deriving DecidableEq, Repr

/-- Parameters of TENSOR_MAP (R192, R447): the descriptor fields and the backing frames with the leaf
attributes of R259. frames lists FRAME numbers, one for each 64 KiB leaf, or one for each 2 MiB leaf
when large is set. -/
structure TensorParams where
  tid : BitVec 16
  rank : BitVec 2
  fmt : BitVec 4
  geom : BitVec 2
  plane : BitVec 2
  device : BitVec 4
  dims : Vector (BitVec 32) 4
  large : Bool
  w : Bool
  so : Bool
  ut : Bool
  c : Bool
  lclass : BitVec 4
  frames : List (BitVec 32)
deriving DecidableEq, Repr

/-- Parameters of SCAN_POLICY (R420). -/
structure ScanPolicy where
  interval : BitVec 32
  pset : BitVec 4
  abortPrio : BitVec 6
  maxAbort : BitVec 8
deriving DecidableEq, Repr

/-- Memory reservation classes (R268). -/
inductive RClass where
  | opn | shared | timed
deriving DecidableEq, Repr

/-- Parameters of TIME_CONFIG (R347, R348): the role, the window length in microseconds, the time set
value when one is given, and the device number of a backup master (R410). -/
structure TimeParams where
  master : Bool
  windowUs : Nat
  setNs : Option Nat
  backup : Option (BitVec 4)
deriving DecidableEq, Repr

/-- A firmware patch (R345): its length and what it says of itself (log 16): its security version, its key slot and the place of its
signature, the keys that it adds with their slots, and the slots that it revokes. -/
structure PatchParams where
  len : BitVec 32
  version : BitVec 16
  slot : Byte
  sigAt : Nat
  adds : List (BitVec 3 × BitVec 20736)
  revokes : List (BitVec 3)
deriving DecidableEq, Repr

/-- A route of R346: the device, the port it leaves by and its hops. -/
abbrev Route := BitVec 4 × BitVec 2 × BitVec 3

/-- A flit of 256 bytes as it arrives (R346): header, payload and CRC-64. One that takes the port down has Wyane find the routes
that follow (R409, log 42). -/
structure Flit where
  header : BitVec 64
  payload : BitVec 1920
  crc : BitVec 64
  reroutes : List Route
deriving DecidableEq, Repr

/-- A port that goes down, and the routes that Wyane finds without it (R407, R409, log 42). -/
structure PortLoss where
  port : BitVec 2
  reroutes : List Route
deriving DecidableEq, Repr

/-- What a detector report says of its error: the region attempt that it concerns, whether the error was corrected, and, of a
stage-die table, whether both dies share it (R368, R369, R376). -/
structure ReportKind where
  attempt : Nat
  corrected : Bool
  shared : Bool
deriving DecidableEq, Repr

/-- The start of a running order (R330): its TIME, and the addresses of the pages whose translations Wyane locks (R263, log 43). -/
structure OrderStart where
  time : Word
  locks : List Word
deriving DecidableEq, Repr

/-- A CFL (R304): the RQ of the context that holds the line, and the requester that the message goes to. -/
structure Conflict where
  rq : Rq
  dst : Rq
deriving DecidableEq, Repr

/-- A PREL (R307): its line and the holder that it goes to. -/
structure Release where
  line : Nat
  dst : Holder
deriving DecidableEq, Repr

/-- An activation that has timed out (R406): its line, and the die whose stage link is lost, if one is. -/
structure Timeout where
  line : Nat
  lost : Option Bool
deriving DecidableEq, Repr

/-- A recreation that completes (R404, R405): its line, and whether the check bits of memory's copy fail. -/
structure Recreated where
  line : Nat
  bad : Bool
deriving DecidableEq, Repr

/-- What a read of a line from LPDDR6 finds (R402, R404): nothing wrong, data that is uncorrectable, or a metadata word that is. -/
inductive ScrubFind where
  | clean | data | word
deriving DecidableEq, Repr

/-- Causes of a die-level event (R376). -/
inductive DieCause where
  | supply | clock | stageLink | junction | stageTable | forced | retirements | noCore
deriving DecidableEq, Repr

/-- What a CXL.cache snoop asks of the device's copies of a host line (R286). -/
inductive SnoopKind where
  | invalidate
  | update (line : BitVec 512)
deriving DecidableEq, Repr

/-- The protocols of the host link (R335). -/
inductive LinkProto where
  | io | mem | cache
deriving DecidableEq, Repr

/-- Every step of the part: one constructor for each row of spec/opcode_table.json. -/
inductive Instr where
  -- bundle steps (R79, R87, R37)
  | emptyBundle (rs cgn : Bool) (cg : PReg)
  | bundleSkip (rs : Bool) (cg : PReg) (bytes : BitVec 6)
  | implicitRegionCommit
  -- S class (R127 to R156)
  | nop
  | add (d a b : SReg) (ma mb : Bool)
  | sub (d a b : SReg) (ma mb : Bool)
  | mul (d a b : SReg) (ma mb : Bool)
  | mulh (d a b : SReg) (ma mb : Bool)
  | mulhu (d a b : SReg) (ma mb : Bool)
  | div (d a b : SReg) (ma mb : Bool)
  | divu (d a b : SReg) (ma mb : Bool)
  | rem (d a b : SReg) (ma mb : Bool)
  | remu (d a b : SReg) (ma mb : Bool)
  | and (d a b : SReg) (ma mb : Bool)
  | or (d a b : SReg) (ma mb : Bool)
  | xor (d a b : SReg) (ma mb : Bool)
  | shl (d a b : SReg) (ma mb : Bool)
  | shr (d a b : SReg) (ma mb : Bool)
  | sra (d a b : SReg) (ma mb : Bool)
  | min (d a b : SReg) (ma mb : Bool)
  | max (d a b : SReg) (ma mb : Bool)
  | minu (d a b : SReg) (ma mb : Bool)
  | maxu (d a b : SReg) (ma mb : Bool)
  | clz (d a : SReg) (ma : Bool)
  | ctz (d a : SReg) (ma : Bool)
  | popc (d a : SReg) (ma : Bool)
  | sext (d a : SReg) (n : BitVec 6) (ma : Bool)
  | zext (d a : SReg) (n : BitVec 6) (ma : Bool)
  | bfx (d a b : SReg) (ma mb : Bool)
  | bfi (d a b : SReg) (ma mb : Bool)
  | sel (d a b : SReg) (ma mb : Bool)
  | mov (d a : SReg) (ma : Bool)
  | addi (d a : SReg) (imm : Imm)
  | andi (d a : SReg) (imm : Imm)
  | ori (d a : SReg) (imm : Imm)
  | xori (d a : SReg) (imm : Imm)
  | shli (d a : SReg) (amt : BitVec 6) (long : Bool)
  | shri (d a : SReg) (amt : BitVec 6) (long : Bool)
  | srai (d a : SReg) (amt : BitVec 6) (long : Bool)
  | movi (d : SReg) (imm : ImmWide)
  | pcmp (d : PReg) (cc : Cond) (a b : SReg) (ma mb : Bool) (u : Option Bool)
  | pcmpi (d : PReg) (cc : Cond) (a : SReg) (imm : CmpImm)
  | pand (d a b : PReg)
  | por (d a b : PReg)
  | pxor (d a b : PReg)
  | pandn (d a b : PReg)
  | pts (d : SReg)
  | pfs (a : SReg) (ma : Bool)
  | ld (d a : SReg) (size : BitVec 2) (sx ma : Bool) (off : Option Word32)
  | st (a b : SReg) (size : BitVec 2) (ma mb : Bool) (off : Option Word32)
  | ldsp (d a : SReg) (n : BitVec 6) (ma : Bool)
  | stsp (n : BitVec 6) (a b : SReg) (ma mb : Bool)
  | br (a : SReg) (ma : Bool)
  | bri (off : Imm)
  | call (d a : SReg) (ma : Bool)
  | calli (d : SReg) (off : Imm)
  | ret (a : SReg) (ma : Bool)
  | bswap (a : SReg) (ma : Bool)
  | loop (a : SReg) (ma : Bool) (len : LoopLen)
  | loopp (a : SReg) (ma : Bool) (stages : BitVec 3) (len : LoopLen)
  -- V class (R164 to R186)
  | vsetshapeReg (a : SReg) (ma : Bool)
  | vsetshapeImm (w : Word32)
  | vadd (d a b : VField) (ma mb : Bool)
  | vsub (d a b : VField) (ma mb : Bool)
  | vmul (d a b : VField) (ma mb : Bool)
  | vfma (d a b : VField) (ma mb : Bool)
  | vfms (d a b : VField) (ma mb : Bool)
  | vmin (d a b : VField) (ma mb : Bool)
  | vmax (d a b : VField) (ma mb : Bool)
  | vabs (d a : VField) (ma : Bool)
  | vneg (d a : VField) (ma : Bool)
  | vadds (d a b : VField) (ma mb : Bool)
  | vsubs (d a b : VField) (ma mb : Bool)
  | vmulh (d a b : VField) (ma mb : Bool)
  | vand (d a b : VField) (ma mb : Bool)
  | vor (d a b : VField) (ma mb : Bool)
  | vxor (d a b : VField) (ma mb : Bool)
  | vnot (d a : VField) (ma : Bool)
  | vshl (d a b : VField) (ma mb : Bool)
  | vshr (d a b : VField) (ma mb : Bool)
  | vsra (d a b : VField) (ma mb : Bool)
  | vcmp (d : KReg) (cc : VCond) (a b : VField) (ma mb : Bool)
  | vsel (d a : VField) (k : KReg) (ma : Bool)
  | vsplatReg (d : VField) (a : SReg) (ma : Bool)
  | vsplatImm (d : VField) (w : Word32)
  | vbcast (d a : VField) (b : SReg) (ma mb : Bool)
  | vextr (d : SReg) (a : VField) (b : SReg) (ma mb : Bool)
  | vins (d : VField) (a b : SReg) (ma mb : Bool)
  | viota (d : VField) (k : KReg)
  | vcvt (d a : VField) (ma : Bool) (dt : CvtDst) (src : CvtSrc) (rm : RM) (scale : Byte)
  | vreq (d a : VField) (ma : Bool) (dt : ReqDst) (src : ReqSrc) (rm : RM) (sup : Bool) (scale : Byte)
  | vred (d a : VField) (ma : Bool) (op : RedOp) (axis : RedAxis) (rm : RM)
  | vscan (d a : VField) (ma : Bool) (op : ScanOp) (col ex : Bool)
  | vperm (d a b : VField) (ma mb : Bool)
  | vtrans (d a : VField) (ma : Bool)
  | vgath (d a b : VField) (ma mb : Bool)
  | vscat (d a b : VField) (ma mb : Bool)
  | vdot4 (d a b : VField) (ma mb : Bool)
  | vrng (d a : VField) (b : SReg) (ma mb : Bool)
  | vcopy (d a : VField) (ma : Bool)
  | kand (d a b : KReg)
  | kor (d a b : KReg)
  | kxor (d a b : KReg)
  | knot (d a : KReg)
  | kpopc (d : SReg) (a : KReg)
  | ktop (d : SReg) (a : KReg)
  | vsetwin (a : SReg) (ma : Bool)
  | vsetix (d : IxReg) (a : SReg) (ma : Bool)
  -- special functions (R187)
  | fexp2 (d a : VField) (ma : Bool)
  | flog2 (d a : VField) (ma : Bool)
  | frcp (d a : VField) (ma : Bool)
  | frsq (d a : VField) (ma : Bool)
  | fsin (d a : VField) (ma : Bool)
  | fcos (d a : VField) (ma : Bool)
  | ftanh (d a : VField) (ma : Bool)
  | fsigm (d a : VField) (ma : Bool)
  -- T class (R193 to R204, R244)
  | tdesc (d : TdReg) (a : SReg) (ma : Bool)
  | tld (d : VField) (a b : SReg) (ma mb : Bool) (t : TdReg)
  | tldp (d : VField) (a b : SReg) (ma mb : Bool) (t p1 p2 : TdReg)
  | tldm (d : VField) (a b : SReg) (ma mb : Bool) (t : TdReg) (c : SReg)
  | tlds (d : VField) (a : SReg) (ma : Bool)
  | tst (d : VField) (a b : SReg) (ma mb : Bool) (t : TdReg)
  | tstM (d : VField) (a b : SReg) (ma mb : Bool) (t p1 p2 : TdReg)
  | tpf (t : TdReg) (a b : SReg) (ma mb : Bool)
  | tpfl (t : TdReg) (a b : SReg) (ma mb : Bool) (count : BitVec 8)
  | imld (a b : SReg) (ma mb : Bool)
  -- M class (R209 to R220)
  | mmaI8 (d a b : VField) (ma mb : Bool)
  | mmaBf (d a b : VField) (ma mb : Bool)
  | mmaT6 (d a b : VField) (ma mb : Bool)
  | mmaT8 (d a b : VField) (ma mb : Bool)
  | mmaT12 (d a b : VField) (ma mb : Bool)
  | mmaAd (d a b : VField) (ma mb : Bool)
  | mmaAdRungEnd (c : CoreId)
  | mzero (d : VField)
  | mfinI (d : VField)
  | mfinF (d : VField)
  | mlimImm (n : BitVec 6)
  | mlimReg (a : SReg) (ma : Bool)
  | mbud (a b : SReg) (ma mb : Bool)
  | mrd (d : SReg) (sel : BitVec 2) (clr : Bool)
  | mcvt (d a : VField) (ma : Bool) (toBf : Bool)
  -- X class (R225 to R250)
  | commit
  | fence (sc : Scope)
  | ifence
  | amo (op : AmoOp) (wide : Bool) (sc : Scope) (d a b : SReg) (ma mb : Bool)
  | cas (wide : Bool) (sc : Scope) (d a b : SReg) (ma mb : Bool) (c : SReg)
  | yield
  | await (a : SReg) (ma : Bool)
  | tspawn (d a b : SReg) (ma mb : Bool)
  | texit (a : SReg) (ma : Bool)
  | fnew (d : SReg)
  | fset (a b : SReg) (ma mb : Bool)
  | fgetV (d a : SReg) (ma : Bool)
  | fgetS (d a : SReg) (ma : Bool)
  | ffail (a : SReg) (ma : Bool)
  | ffree (a : SReg) (ma : Bool)
  | cnew (d : SReg)
  | cjoin (a : SReg) (ma : Bool)
  | cleave (a : SReg) (ma : Bool)
  | cfree (a : SReg) (ma : Bool)
  | barrive (d a : SReg) (ma : Bool)
  | bexpect (a b : SReg) (ma mb : Bool)
  | bwait (a b : SReg) (ma mb : Bool)
  | btest (d a b : SReg) (ma mb : Bool)
  | barrierWaiterRelease (c : CoreId) (x : CtxId)
  | sysr (d : SReg) (n : BitVec 12)
  | sysw (d : SReg) (n : BitVec 12)
  | trap (n : BitVec 12)
  | eret
  | uiret
  | brk (n : BitVec 12)
  | halt
  | waitt (a : SReg) (ma : Bool)
  | tout (a b : SReg) (ma mb : Bool)
  | imsum (d a b : SReg) (ma mb : Bool)
  | scan (d : SReg)
  | ctxsave (a : SReg) (ma : Bool)
  | ctxload (a : SReg) (ma : Bool)
  -- landings and engine turns
  | resultLand (c : CoreId) (x : CtxId)
  | matrixResultLand (c : CoreId)
  | tileFillLand (c : CoreId)
  | tileStorePerform (c : CoreId)
  | tpflComplete (c : CoreId)
  | imldLineArrive (c : CoreId)
  | horizonWaitEnd (c : CoreId) (x : CtxId)
  -- errors and registers
  | detectorReport (code : Byte) (c : CoreId) (x : CtxId) (kind : ReportKind) (unit : Byte) (addr : Word) (synd : BitVec 16)
  | timingMarginReport (c : CoreId)
  | elogPop (seq : BitVec 16)
  | registerWrite (off : BitVec 24) (be : Byte) (v : Word)
  | finjCtlWrite (be : Byte) (v : Word)
  | sqTailDoorbell (ring : BitVec 2) (tail : Word)
  | ringEnable (ring : BitVec 2)
  | ringDisable (ring : BitVec 2)
  -- Wyane commands (R341)
  | identify (cmd : Cmd)
  | health (cmd : Cmd) (buf : BitVec 48)
  | imageLoad (cmd : Cmd) (addr : BitVec 48) (len : BitVec 32) (dies : BitVec 2) (sigOk : Bool)
  | imageUnload (cmd : Cmd) (id : BitVec 16)
  | tensorMap (cmd : Cmd) (p : TensorParams)
  | tensorUnmap (cmd : Cmd) (id : BitVec 16)
  | leafSet (cmd : Cmd) (id : BitVec 16) (first count : BitVec 32) (w ut : Bool)
  | queueCreate (cmd : Cmd) (die : Bool) (q : Byte) (attrs : QueueAttrs)
  | queueDestroy (cmd : Cmd) (die : Bool) (q : Byte)
  | launch (cmd : Cmd) (die : Bool) (q : Byte) (addr : BitVec 48)
  | coreClass (cmd : Cmd) (die : Bool) (mask : Word) (timed : Bool)
  | runningOrder (cmd : Cmd) (c : CoreId) (table : BitVec 48) (start : OrderStart)
  | wayLock (cmd : Cmd) (die : Bool) (slices : Word32) (ways : BitVec 16) (cls : BitVec 4)
  | routeReserve (cmd : Cmd) (c : CoreId) (slots : BitVec 5) (cls : RClass)
  | futureTable (cmd : Cmd) (entries : Word32)
  | coreRetire (cmd : Cmd) (die : Bool) (lcore : BitVec 6)
  | scanPolicy (cmd : Cmd) (die : Bool) (p : ScanPolicy)
  | failoverForbid (cmd : Cmd) (die : Bool)
  | failoverAllow (cmd : Cmd) (die : Bool)
  | failoverForce (cmd : Cmd) (die : Bool)
  | linkConfig (cmd : Cmd) (dev : BitVec 4) (routes : List Route)
  | timeConfig (cmd : Cmd) (p : TimeParams)
  | attest (cmd : Cmd) (nonce : BitVec 256) (report : BitVec 48)
  | fwPatch (cmd : Cmd) (addr : BitVec 48) (p : PatchParams)
  | debugResume (cmd : Cmd) (c : CoreId) (x : CtxId)
  | debugEndTask (cmd : Cmd) (c : CoreId) (x : CtxId)
  -- scheduling
  | taskPlacement (die : Bool)
  | taskResume (c : CoreId) (x : CtxId)
  | preemptionRequest (c : CoreId) (x : CtxId)
  | hwContextSave (c : CoreId) (x : CtxId)
  | debitReport (c : CoreId)
  | bucketRefill
  | segmentStart (c : CoreId)
  | timingTrap (c : CoreId)
  | segmentSlotEnd (c : CoreId)
  | timedOutputFire
  -- token coherence messages (R300 to R308)
  | rd (r : Req) (at_ : Stop)
  | rdx (r : Req) (at_ : Stop)
  | upg (r : Req) (held : Nat) (at_ : Stop)
  | cnv (line : Nat) (rq : Rq)
  | fwd (r : Req) (dst : Holder)
  | tok (m : TokMsg)
  | cfl (line : Nat) (m : Conflict)
  | rtn (line : Nat) (c : CoreId)
  | done (line : Nat) (rq : Rq)
  | wb (line : Nat) (count : Nat) (owner dirty : Bool)
  | wbWritePosted (line : Nat)
  | preq (r : Req)
  | pact (r : Req) (act : Nat) (dst : Holder)
  | pdone (line : Nat) (rq : Rq)
  | prel (m : Release)
  | persistentConversion (line : Nat) (rq : Rq)
  | persistentTimeout (m : Timeout)
  | tokenRecreationComplete (m : Recreated)
  | patrolScrub (line : Nat) (find : ScrubFind)
  -- host, other devices, links, time
  | hostCxlMemRead (line : Nat)
  | hostCxlMemWrite (line : Nat) (mask : BitVec 64) (data : BitVec 512)
  | hostWriteAck (c : CoreId) (x : CtxId)
  | remoteLineWrite (src : BitVec 4) (seq : Nat) (tline : BitVec 58) (mask : BitVec 64) (data : BitVec 512)
  | remoteRead (src : BitVec 4) (tline : BitVec 58)
  | remoteAtomic (src : BitVec 4) (seq : Nat) (addr : Word) (wide : Bool) (op : Option AmoOp) (x y : Word)
  | remoteWriteAck (dst : BitVec 4) (seq : Nat)
  | flitReceive (port : BitVec 2) (f : Flit)
  | linkDown (m : PortLoss)
  | fenceWindowEnd (c : CoreId) (x : CtxId)
  | timeSyncMessage (masterNs : Nat)
  | timeLockLoss
  | timeRelock (masterNs : Nat)
  | timebaseReady
  | timeSlewEnd
  | ppsEdge (ns : Nat)
  | thermalReading (die : Bool) (celsius : Byte)
  | dieLevelEvent (die : Bool) (cause : DieCause)
  | failoverAdoption (die : Bool)
  | failoverTokenSweep (line : Nat)
  -- readiness and life of the part
  | channelReady (ch : BitVec 5)
  | dieReady (die : Bool)
  | coreReady (c : CoreId)
  | commandReady
  | deviceReset
  | scanDue (c : CoreId)
  | scanTaskPlacement (c : CoreId)
  | scanAbort (c : CoreId)
  | scanComplete (c : CoreId) (signature : Word)
  | retireTimeout (c : CoreId)
  | coreEnterWings (c : CoreId)
  | laneLock (port : BitVec 2)
  | hostLinkTrained (lanes gts : Nat)
  | cxlCacheSnoop (line : Nat) (k : SnoopKind)
  | unsupportedRequest
  | timedOutputUnitStart
deriving DecidableEq, Repr

end Sys2Proof
end

