-- ==== Sys2Proof/Decode.lean ====
section
/-! DEFINITION. Decode.lean: bundles (R78 to R85), the fields of slot and extension words (R81, R82), the
opcode map (R93) and, from the same tables, the encoder. Every rejection has a name; all of them raise the
illegal-bundle exception (R91, R393). -/

namespace Sys2Proof

/-- Why a bundle is rejected (R91, R393). -/
inductive Reject where
  /-- Header bits [9:0] nonzero, or CG.N = 1 with CG = 0. -/
  | header
  /-- A SURR bit of an absent position or of position 0, or a surrendered word without an owner. -/
  | surrender
  /-- A number of extension words that the instruction does not allow. -/
  | words
  /-- A nonzero unused field or reserved bit, or nonzero [7:0] under a long immediate. -/
  | fields
  /-- A reserved opcode, or an opcode in a position that does not hold it. -/
  | opcode
  /-- A reserved code inside a defined field. -/
  | code
  /-- The bytes end before the bundle does. -/
  | short
deriving DecidableEq, Repr

/-- The fields of a slot word (R81). -/
structure Fields where
  gn : Bool
  g : PReg
  op : BitVec 7
  d : BitVec 6
  a : BitVec 6
  b : BitVec 6
  ma : Bool
  mb : Bool
deriving DecidableEq, Repr

/-- R81: the fields of a slot word. -/
def Fields.ofWord (w : Word32) : Fields :=
  { gn := w.getLsbD 31, g := w.extractLsb' 27 4, op := w.extractLsb' 20 7, d := w.extractLsb' 14 6
    a := w.extractLsb' 8 6, b := w.extractLsb' 2 6, ma := w.getLsbD 1, mb := w.getLsbD 0 }

/-- R81: the slot word with the given fields. -/
def Fields.toWord (f : Fields) : Word32 :=
  BitVec.ofBool f.gn ++ f.g ++ f.op ++ f.d ++ f.a ++ f.b ++ BitVec.ofBool f.ma ++ BitVec.ofBool f.mb

/-- Bits [7:0] of the slot word: the short immediate (R81). -/
def Fields.imm8 (f : Fields) : BitVec 8 := f.b ++ BitVec.ofBool f.ma ++ BitVec.ofBool f.mb

abbrev Dec := Except Reject Instr

/-- x if c holds, else the rejection r. -/
def need (c : Bool) (r : Reject) (x : Dec) : Dec := if c then x else .error r

/-- R84: an instruction that takes no word. -/
def noWord (ext : List Word32) (x : Dec) : Dec :=
  match ext with
  | [] => x
  | _ => .error .words

/-- R84: an instruction that takes exactly one word. -/
def oneWord (ext : List Word32) (x : Word32 → Dec) : Dec :=
  match ext with
  | [w] => x w
  | _ => .error .words

/-- R84: no word, or one. -/
def optWord (ext : List Word32) (x : Option Word32 → Dec) : Dec :=
  match ext with
  | [] => x none
  | [w] => x (some w)
  | _ => .error .words

/-! ### Codes -/

def Cond.ofCode (v : BitVec 2) : Cond := if v = 0 then .eq else if v = 1 then .ne else if v = 2 then .lt else .le
def Cond.code : Cond → BitVec 2
  | .eq => 0 | .ne => 1 | .lt => 2 | .le => 3

def VCond.ofCode (v : BitVec 3) : Option VCond :=
  if v = 0 then some .eq else if v = 1 then some .ne else if v = 2 then some .lt else if v = 3 then some .le
  else if v = 4 then some .gt else if v = 5 then some .ge else none
def VCond.code : VCond → BitVec 3
  | .eq => 0 | .ne => 1 | .lt => 2 | .le => 3 | .gt => 4 | .ge => 5

def RM.ofCode (v : BitVec 2) : RM := if v = 0 then .rne else if v = 1 then .rtz else if v = 2 then .rdn else .rup
def RM.code : RM → BitVec 2
  | .rne => 0 | .rtz => 1 | .rdn => 2 | .rup => 3

def ElemTy.ofCode (v : BitVec 4) : Option ElemTy :=
  if v = 0 then some .i8 else if v = 1 then some .i16 else if v = 2 then some .i32 else if v = 3 then some .n8
  else if v = 4 then some .n16 else if v = 5 then some .n32 else if v = 6 then some .bf16
  else if v = 7 then some .fp32 else none
def ElemTy.code : ElemTy → BitVec 4
  | .i8 => 0 | .i16 => 1 | .i32 => 2 | .n8 => 3 | .n16 => 4 | .n32 => 5 | .bf16 => 6 | .fp32 => 7

def TapFmt.ofCode (v : BitVec 4) : Option TapFmt :=
  if v = 8 then some .t6 else if v = 9 then some .t8 else if v = 10 then some .t12 else none
def TapFmt.code : TapFmt → BitVec 4
  | .t6 => 8 | .t8 => 9 | .t12 => 10

def CvtDst.ofCode (v : BitVec 4) : Option CvtDst :=
  match TapFmt.ofCode v with
  | some t => some (.tap t)
  | none => (ElemTy.ofCode v).map .plain
def CvtDst.code : CvtDst → BitVec 4
  | .plain t => t.code | .tap t => t.code

def CvtSrc.ofCode (v : BitVec 4) : Option CvtSrc :=
  if v = 0 then some .shape else (TapFmt.ofCode v).map .tap
def CvtSrc.code : CvtSrc → BitVec 4
  | .shape => 0 | .tap t => t.code

def ReqDst.ofCode (v : BitVec 4) : Option ReqDst :=
  if v = 0 then some .i8 else if v = 3 then some .n8 else (TapFmt.ofCode v).map .tap
def ReqDst.code : ReqDst → BitVec 4
  | .i8 => 0 | .n8 => 3 | .tap t => t.code

def ReqSrc.ofCode (v : BitVec 4) : Option ReqSrc :=
  if v = 0 then some .shape else if v = 1 then some .i8 else (TapFmt.ofCode v).map .tap
def ReqSrc.code : ReqSrc → BitVec 4
  | .shape => 0 | .i8 => 1 | .tap t => t.code

def RedOp.ofCode (v : BitVec 3) : Option RedOp :=
  if v = 0 then some .sum else if v = 1 then some .min else if v = 2 then some .max else if v = 3 then some .and
  else if v = 4 then some .or else if v = 5 then some .xor else none
def RedOp.code : RedOp → BitVec 3
  | .sum => 0 | .min => 1 | .max => 2 | .and => 3 | .or => 4 | .xor => 5

def RedAxis.ofCode (v : BitVec 2) : Option RedAxis :=
  if v = 0 then some .row else if v = 1 then some .col else if v = 2 then some .all else none
def RedAxis.code : RedAxis → BitVec 2
  | .row => 0 | .col => 1 | .all => 2

def ScanOp.ofCode (v : BitVec 2) : Option ScanOp :=
  if v = 0 then some .sum else if v = 1 then some .min else if v = 2 then some .max else none
def ScanOp.code : ScanOp → BitVec 2
  | .sum => 0 | .min => 1 | .max => 2

def Scope.ofCode (v : BitVec 3) : Option Scope :=
  if v = 0 then some .ctx else if v = 1 then some .core else if v = 2 then some .die else if v = 3 then some .pkg
  else if v = 4 then some .fab else if v = 5 then some .sys else none
def Scope.code : Scope → BitVec 3
  | .ctx => 0 | .core => 1 | .die => 2 | .pkg => 3 | .fab => 4 | .sys => 5

def AmoOp.ofCode (v : BitVec 4) : Option AmoOp :=
  if v = 0 then some .add else if v = 1 then some .and else if v = 2 then some .or else if v = 3 then some .xor
  else if v = 4 then some .min else if v = 5 then some .max else if v = 6 then some .minu
  else if v = 7 then some .maxu else if v = 8 then some .swap else none
def AmoOp.code : AmoOp → BitVec 4
  | .add => 0 | .and => 1 | .or => 2 | .xor => 3 | .min => 4 | .max => 5 | .minu => 6 | .maxu => 7 | .swap => 8

/-- A code of the table, or the rejection of a reserved code. -/
def known {α : Type} (o : Option α) (x : α → Dec) : Dec :=
  match o with
  | some v => x v
  | none => .error .code

/-! ### S class (R93, R124 to R151) -/

/-- The form OP sD, sA, sB. -/
def dec3 (mk : BitVec 6 → BitVec 6 → BitVec 6 → Bool → Bool → Instr) (f : Fields) (ext : List Word32) : Dec :=
  noWord ext (.ok (mk f.d f.a f.b f.ma f.mb))

/-- The form OP sD, sA with B and MB unused. -/
def dec2 (mk : BitVec 6 → BitVec 6 → Bool → Instr) (f : Fields) (ext : List Word32) : Dec :=
  noWord ext (need (f.b = 0 && !f.mb) .fields (.ok (mk f.d f.a f.ma)))

/-- The form OP sA with D, B and MB unused. -/
def decA (mk : BitVec 6 → Bool → Instr) (f : Fields) (ext : List Word32) : Dec :=
  noWord ext (need (f.d = 0 && f.b = 0 && !f.mb) .fields (.ok (mk f.a f.ma)))

/-- The form OP sA, sB with D unused. -/
def decAB (mk : BitVec 6 → BitVec 6 → Bool → Bool → Instr) (f : Fields) (ext : List Word32) : Dec :=
  noWord ext (need (f.d = 0) .fields (.ok (mk f.a f.b f.ma f.mb)))

/-- The form OP vD with A, B, MA and MB unused. -/
def decD (mk : BitVec 6 → Instr) (f : Fields) (ext : List Word32) : Dec :=
  noWord ext (need (f.a = 0 && f.b = 0 && !f.ma && !f.mb) .fields (.ok (mk f.d)))

/-- An instruction without operands. -/
def dec0 (i : Instr) (f : Fields) (ext : List Word32) : Dec :=
  noWord ext (need (f.d = 0 && f.a = 0 && f.b = 0 && !f.ma && !f.mb) .fields (.ok i))

/-- A number n = A * 64 + B with MA and MB unused (R223). -/
def decN (mk : BitVec 6 → BitVec 12 → Instr) (f : Fields) (ext : List Word32) : Dec :=
  noWord ext (need (!f.ma && !f.mb) .fields (.ok (mk f.d (f.a ++ f.b))))

/-- R134: an immediate in bits [7:0], or in a long-immediate word with bits [7:0] zero (R85). -/
def decImm (mk : Imm → Instr) (f : Fields) (ext : List Word32) : Dec :=
  optWord ext fun o =>
    match o with
    | none => .ok (mk (.short f.imm8))
    | some w => need (f.imm8 = 0) .fields (.ok (mk (.long w)))

/-- R134: a shift amount in bits [5:0] of the immediate, its other bits zero. -/
def decShift (mk : SReg → SReg → BitVec 6 → Bool → Instr) (f : Fields) (ext : List Word32) : Dec :=
  optWord ext fun o =>
    match o with
    | none => need (f.imm8.extractLsb' 6 2 = 0) .fields (.ok (mk f.d f.a (f.imm8.extractLsb' 0 6) false))
    | some w => need (f.imm8 = 0 && w.extractLsb' 6 26 = 0) .fields (.ok (mk f.d f.a (w.extractLsb' 0 6) true))

/-- R146: a branch displacement; bits [1:0] of a long immediate must be zero. -/
def decBranch (mk : Imm → Instr) (f : Fields) (ext : List Word32) : Dec :=
  optWord ext fun o =>
    match o with
    | none => .ok (mk (.short f.imm8))
    | some w => need (f.imm8 = 0) .fields (need (w.extractLsb' 0 2 = 0) .code (.ok (mk (.long w))))

/-- R150: a body length in the B field, or in the optional word with B zero; zero is illegal. -/
def decLoop (mk : LoopLen → Instr) (f : Fields) (ext : List Word32) : Dec :=
  optWord ext fun o =>
    match o with
    | none => need (!f.mb) .fields (need (f.b ≠ 0) .code (.ok (mk (.short f.b))))
    | some w =>
      need (!f.mb && f.b = 0 && w.extractLsb' 13 19 = 0) .fields
        (need (w.extractLsb' 0 13 ≠ 0) .code (.ok (mk (.long (w.extractLsb' 0 13)))))

def decPcmp (f : Fields) (ext : List Word32) : Dec :=
  optWord ext fun o =>
    match o with
    | none => .ok (.pcmp (f.d.extractLsb' 0 4) (Cond.ofCode (f.d.extractLsb' 4 2)) f.a f.b f.ma f.mb none)
    | some w => need (w.extractLsb' 1 31 = 0) .fields
        (.ok (.pcmp (f.d.extractLsb' 0 4) (Cond.ofCode (f.d.extractLsb' 4 2)) f.a f.b f.ma f.mb (some (w.getLsbD 0))))

def decPcmpi (f : Fields) (ext : List Word32) : Dec :=
  optWord ext fun o =>
    match o with
    | none => .ok (.pcmpi (f.d.extractLsb' 0 4) (Cond.ofCode (f.d.extractLsb' 4 2)) f.a (.short f.imm8))
    | some w => need (f.imm8 = 0) .fields
        (.ok (.pcmpi (f.d.extractLsb' 0 4) (Cond.ofCode (f.d.extractLsb' 4 2)) f.a
          (.word (w.getLsbD 0) (w.extractLsb' 1 31))))

/-- PAND to PANDN (R138). -/
def decP3 (mk : PReg → PReg → PReg → Instr) (f : Fields) (ext : List Word32) : Dec :=
  noWord ext (need (f.d.extractLsb' 4 2 = 0 && f.a.extractLsb' 4 2 = 0 && f.b.extractLsb' 4 2 = 0
      && !f.ma && !f.mb) .fields
    (.ok (mk (f.d.extractLsb' 0 4) (f.a.extractLsb' 0 4) (f.b.extractLsb' 0 4))))

def decLd (f : Fields) (ext : List Word32) : Dec :=
  optWord ext fun o =>
    need (f.b.extractLsb' 3 3 = 0 && !f.mb) .fields
      (need (!(f.b.getLsbD 2 && f.b.extractLsb' 0 2 = 3)) .code
        (.ok (.ld f.d f.a (f.b.extractLsb' 0 2) (f.b.getLsbD 2) f.ma o)))

def decSt (f : Fields) (ext : List Word32) : Dec :=
  optWord ext fun o =>
    need (f.d.extractLsb' 2 4 = 0) .fields (.ok (.st f.a f.b (f.d.extractLsb' 0 2) f.ma f.mb o))

def decMovi (f : Fields) (ext : List Word32) : Dec :=
  match ext with
  | [] => need (f.a = 0) .fields (.ok (.movi f.d (.short f.imm8)))
  | [w] => need (f.a = 0 && f.imm8 = 0) .fields (.ok (.movi f.d (.long w)))
  | [w, v] => need (f.a = 0 && f.imm8 = 0) .fields (.ok (.movi f.d (.wide (v ++ w))))
  | _ => .error .words

/-- The S class (R93); s0 tells position 0, the only one for opcodes 0x50 to 0x57. -/
def decodeS (s0 : Bool) (f : Fields) (ext : List Word32) : Dec :=
  match f.op.toNat with
  | 0x00 => dec0 .nop f ext
  | 0x01 => dec3 .add f ext
  | 0x02 => dec3 .sub f ext
  | 0x03 => dec3 .mul f ext
  | 0x04 => dec3 .mulh f ext
  | 0x05 => dec3 .mulhu f ext
  | 0x06 => dec3 .div f ext
  | 0x07 => dec3 .divu f ext
  | 0x08 => dec3 .rem f ext
  | 0x09 => dec3 .remu f ext
  | 0x0A => dec3 .and f ext
  | 0x0B => dec3 .or f ext
  | 0x0C => dec3 .xor f ext
  | 0x0D => dec3 .shl f ext
  | 0x0E => dec3 .shr f ext
  | 0x0F => dec3 .sra f ext
  | 0x10 => dec3 .min f ext
  | 0x11 => dec3 .max f ext
  | 0x12 => dec3 .minu f ext
  | 0x13 => dec3 .maxu f ext
  | 0x14 => dec2 .clz f ext
  | 0x15 => dec2 .ctz f ext
  | 0x16 => dec2 .popc f ext
  | 0x17 => noWord ext (need (!f.mb) .fields (.ok (.sext f.d f.a f.b f.ma)))
  | 0x18 => noWord ext (need (!f.mb) .fields (.ok (.zext f.d f.a f.b f.ma)))
  | 0x19 => dec3 .bfx f ext
  | 0x1A => dec3 .bfi f ext
  | 0x1B => dec3 .sel f ext
  | 0x1C => dec2 .mov f ext
  | 0x20 => decImm (.addi f.d f.a) f ext
  | 0x21 => decImm (.andi f.d f.a) f ext
  | 0x22 => decImm (.ori f.d f.a) f ext
  | 0x23 => decImm (.xori f.d f.a) f ext
  | 0x24 => decShift .shli f ext
  | 0x25 => decShift .shri f ext
  | 0x26 => decShift .srai f ext
  | 0x27 => decMovi f ext
  | 0x30 => decPcmp f ext
  | 0x31 => decPcmpi f ext
  | 0x32 => decP3 .pand f ext
  | 0x33 => decP3 .por f ext
  | 0x34 => decP3 .pxor f ext
  | 0x35 => decP3 .pandn f ext
  | 0x36 => decD .pts f ext
  | 0x37 => decA .pfs f ext
  | 0x40 => decLd f ext
  | 0x41 => decSt f ext
  | 0x42 => noWord ext (need (!f.mb) .fields (.ok (.ldsp f.d f.a f.b f.ma)))
  | 0x43 => noWord ext (.ok (.stsp f.d f.a f.b f.ma f.mb))
  | 0x50 => need s0 .opcode (decA .br f ext)
  | 0x51 => need s0 .opcode (need (f.d = 0 && f.a = 0) .fields (decBranch .bri f ext))
  | 0x52 => need s0 .opcode (dec2 .call f ext)
  | 0x53 => need s0 .opcode (need (f.a = 0) .fields (decBranch (.calli f.d) f ext))
  | 0x54 => need s0 .opcode (decA .ret f ext)
  | 0x55 => need s0 .opcode (need (f.d = 0) .fields (decLoop (.loop f.a f.ma) f ext))
  | 0x56 => need s0 .opcode (need (f.d.extractLsb' 3 3 = 0) .fields
      (decLoop (.loopp f.a f.ma (f.d.extractLsb' 0 3)) f ext))
  | 0x57 => need s0 .opcode (decA .bswap f ext)
  | _ => .error .opcode

/-! ### V class (R93, R157 to R186) -/

/-- KAND, KOR and KXOR (R171). -/
def decK3 (mk : KReg → KReg → KReg → Instr) (f : Fields) (ext : List Word32) : Dec :=
  noWord ext (need (f.d.extractLsb' 3 3 = 0 && f.a.extractLsb' 3 3 = 0 && f.b.extractLsb' 3 3 = 0
      && !f.ma && !f.mb) .fields
    (.ok (mk (f.d.extractLsb' 0 3) (f.a.extractLsb' 0 3) (f.b.extractLsb' 0 3))))

/-- KPOPC and KTOP (R172). -/
def decSK (mk : SReg → KReg → Instr) (f : Fields) (ext : List Word32) : Dec :=
  noWord ext (need (f.a.extractLsb' 3 3 = 0 && f.b = 0 && !f.ma && !f.mb) .fields
    (.ok (mk f.d (f.a.extractLsb' 0 3))))

def decVcvt (f : Fields) (ext : List Word32) : Dec :=
  oneWord ext fun w =>
    need (f.b = 0 && !f.mb && w.extractLsb' 18 14 = 0) .fields
      (known (CvtDst.ofCode (w.extractLsb' 0 4)) fun dt =>
        known (CvtSrc.ofCode (w.extractLsb' 4 4)) fun src =>
          .ok (.vcvt f.d f.a f.ma dt src (RM.ofCode (w.extractLsb' 8 2)) (w.extractLsb' 10 8)))

def decVreq (f : Fields) (ext : List Word32) : Dec :=
  oneWord ext fun w =>
    need (f.b = 0 && !f.mb && w.extractLsb' 19 13 = 0) .fields
      (known (ReqDst.ofCode (w.extractLsb' 0 4)) fun dt =>
        known (ReqSrc.ofCode (w.extractLsb' 4 4)) fun src =>
          .ok (.vreq f.d f.a f.ma dt src (RM.ofCode (w.extractLsb' 8 2)) (w.getLsbD 10) (w.extractLsb' 11 8)))

def decVred (f : Fields) (ext : List Word32) : Dec :=
  oneWord ext fun w =>
    need (f.b = 0 && !f.mb && w.extractLsb' 7 25 = 0) .fields
      (known (RedOp.ofCode (w.extractLsb' 0 3)) fun op =>
        known (RedAxis.ofCode (w.extractLsb' 3 2)) fun ax =>
          .ok (.vred f.d f.a f.ma op ax (RM.ofCode (w.extractLsb' 5 2))))

def decVscan (f : Fields) (ext : List Word32) : Dec :=
  noWord ext (need (f.b.extractLsb' 4 2 = 0 && !f.mb) .fields
    (known (ScanOp.ofCode (f.b.extractLsb' 0 2)) fun op =>
      .ok (.vscan f.d f.a f.ma op (f.b.getLsbD 2) (f.b.getLsbD 3))))

def decVsetshape (f : Fields) (ext : List Word32) : Dec :=
  optWord ext fun o =>
    need (f.d = 0 && f.b = 0 && !f.mb) .fields
      (match o with
        | none => .ok (.vsetshapeReg f.a f.ma)
        | some w => need (f.a = 0 && !f.ma) .fields (.ok (.vsetshapeImm w)))

def decVsplat (f : Fields) (ext : List Word32) : Dec :=
  optWord ext fun o =>
    need (f.b = 0 && !f.mb) .fields
      (match o with
        | none => .ok (.vsplatReg f.d f.a f.ma)
        | some w => need (f.a = 0 && !f.ma) .fields (.ok (.vsplatImm f.d w)))

/-- The V class (R93). -/
def decodeV (f : Fields) (ext : List Word32) : Dec :=
  match f.op.toNat with
  | 0x01 => decVsetshape f ext
  | 0x02 => dec3 .vadd f ext
  | 0x03 => dec3 .vsub f ext
  | 0x04 => dec3 .vmul f ext
  | 0x05 => dec3 .vfma f ext
  | 0x06 => dec3 .vfms f ext
  | 0x07 => dec3 .vmin f ext
  | 0x08 => dec3 .vmax f ext
  | 0x09 => dec2 .vabs f ext
  | 0x0A => dec2 .vneg f ext
  | 0x0B => dec3 .vadds f ext
  | 0x0C => dec3 .vsubs f ext
  | 0x0D => dec3 .vmulh f ext
  | 0x0E => dec3 .vand f ext
  | 0x0F => dec3 .vor f ext
  | 0x10 => dec3 .vxor f ext
  | 0x11 => dec2 .vnot f ext
  | 0x12 => dec3 .vshl f ext
  | 0x13 => dec3 .vshr f ext
  | 0x14 => dec3 .vsra f ext
  | 0x15 => noWord ext (known (VCond.ofCode (f.d.extractLsb' 3 3)) fun cc =>
      .ok (.vcmp (f.d.extractLsb' 0 3) cc f.a f.b f.ma f.mb))
  | 0x16 => noWord ext (need (f.b.extractLsb' 3 3 = 0 && !f.mb) .fields
      (.ok (.vsel f.d f.a (f.b.extractLsb' 0 3) f.ma)))
  | 0x17 => decVsplat f ext
  | 0x18 => dec3 .vbcast f ext
  | 0x19 => dec3 .vextr f ext
  | 0x1A => dec3 .vins f ext
  | 0x1B => decSK .viota f ext
  | 0x1C => decVcvt f ext
  | 0x1D => decVreq f ext
  | 0x1E => decVred f ext
  | 0x1F => decVscan f ext
  | 0x20 => dec3 .vperm f ext
  | 0x21 => dec2 .vtrans f ext
  | 0x22 => dec3 .vgath f ext
  | 0x23 => dec3 .vscat f ext
  | 0x24 => dec3 .vdot4 f ext
  | 0x25 => dec3 .vrng f ext
  | 0x26 => dec2 .vcopy f ext
  | 0x27 => decK3 .kand f ext
  | 0x28 => decK3 .kor f ext
  | 0x29 => decK3 .kxor f ext
  | 0x2A => noWord ext (need (f.d.extractLsb' 3 3 = 0 && f.a.extractLsb' 3 3 = 0 && f.b = 0
      && !f.ma && !f.mb) .fields (.ok (.knot (f.d.extractLsb' 0 3) (f.a.extractLsb' 0 3))))
  | 0x2B => decSK .kpopc f ext
  | 0x2C => decSK .ktop f ext
  | 0x2D => decA .vsetwin f ext
  | 0x2E => noWord ext (need (f.d.extractLsb' 2 4 = 0 && f.b = 0 && !f.mb) .fields
      (.ok (.vsetix (f.d.extractLsb' 0 2) f.a f.ma)))
  | _ => .error .opcode

/-! ### T class (R93, R193 to R204, R244) -/

/-- The T class (R93); t0 tells position 4, the only one for IMLD. -/
def decodeT (t0 : Bool) (f : Fields) (ext : List Word32) : Dec :=
  match f.op.toNat with
  | 0x01 => noWord ext (need (f.d.extractLsb' 4 2 = 0 && f.b = 0 && !f.mb) .fields
      (.ok (.tdesc (f.d.extractLsb' 0 4) f.a f.ma)))
  | 0x02 => oneWord ext fun w => need (w.extractLsb' 4 28 = 0) .fields
      (.ok (.tld f.d f.a f.b f.ma f.mb (w.extractLsb' 0 4)))
  | 0x03 => oneWord ext fun w => need (w.extractLsb' 12 20 = 0) .fields
      (.ok (.tldp f.d f.a f.b f.ma f.mb (w.extractLsb' 0 4) (w.extractLsb' 4 4) (w.extractLsb' 8 4)))
  | 0x04 => oneWord ext fun w => need (w.extractLsb' 10 22 = 0) .fields
      (.ok (.tldm f.d f.a f.b f.ma f.mb (w.extractLsb' 0 4) (w.extractLsb' 4 6)))
  | 0x05 => dec2 .tlds f ext
  | 0x06 => oneWord ext fun w => need (w.extractLsb' 13 19 = 0) .fields
      (if w.getLsbD 12 then
        .ok (.tstM f.d f.a f.b f.ma f.mb (w.extractLsb' 0 4) (w.extractLsb' 4 4) (w.extractLsb' 8 4))
      else need (w.extractLsb' 4 8 = 0) .fields (.ok (.tst f.d f.a f.b f.ma f.mb (w.extractLsb' 0 4))))
  | 0x07 => noWord ext (need (f.d.extractLsb' 4 2 = 0) .fields
      (.ok (.tpf (f.d.extractLsb' 0 4) f.a f.b f.ma f.mb)))
  | 0x08 => oneWord ext fun w => need (f.d.extractLsb' 4 2 = 0 && w.extractLsb' 8 24 = 0) .fields
      (.ok (.tpfl (f.d.extractLsb' 0 4) f.a f.b f.ma f.mb (w.extractLsb' 0 8)))
  | 0x09 => need t0 .opcode (decAB .imld f ext)
  | _ => .error .opcode

/-! ### M class (R93, R209 to R220) -/

/-- The M class (R93). R211 and R216 do not name the MA bit of `MLIM n` and of MRD among the unused bits, and
neither form has a register for it to act on; the model takes the bit for an unused one, so that MA = 1 raises
the illegal-bundle exception (DESIGN CHOICE, log 47). -/
def decodeM (f : Fields) (ext : List Word32) : Dec :=
  match f.op.toNat with
  | 0x01 => dec3 .mmaI8 f ext
  | 0x02 => dec3 .mmaBf f ext
  | 0x03 => dec3 .mmaT6 f ext
  | 0x04 => dec3 .mmaT8 f ext
  | 0x05 => dec3 .mmaT12 f ext
  | 0x06 => dec3 .mmaAd f ext
  | 0x08 => decD .mzero f ext
  | 0x09 => noWord ext (need (f.a.extractLsb' 1 5 = 0 && f.b = 0 && !f.ma && !f.mb) .fields
      (.ok (if f.a.getLsbD 0 then .mfinF f.d else .mfinI f.d)))
  | 0x0A => noWord ext (need (f.d.extractLsb' 1 5 = 0 && f.b = 0 && !f.mb) .fields
      (if f.d.getLsbD 0 then .ok (.mlimReg f.a f.ma) else need (!f.ma) .fields (.ok (.mlimImm f.a))))
  | 0x0B => decAB .mbud f ext
  | 0x0C => noWord ext (need (f.a.extractLsb' 2 3 = 0 && f.b = 0 && !f.ma && !f.mb) .fields
      (.ok (.mrd f.d (f.a.extractLsb' 0 2) (f.a.getLsbD 5))))
  | 0x0D => noWord ext (need (f.b.extractLsb' 2 4 = 0 && !f.mb) .fields
      (need (!f.b.getLsbD 1) .code (.ok (.mcvt f.d f.a f.ma (f.b.getLsbD 0)))))
  | _ => .error .opcode

/-! ### X class (R93, R187, R223 to R250) -/

def decAmo (f : Fields) (ext : List Word32) : Dec :=
  oneWord ext fun w =>
    need (w.extractLsb' 9 23 = 0) .fields
      (need (w.getLsbD 5) .code
        (known (AmoOp.ofCode (w.extractLsb' 0 4)) fun op =>
          known (Scope.ofCode (w.extractLsb' 6 3)) fun sc =>
            .ok (.amo op (w.getLsbD 4) sc f.d f.a f.b f.ma f.mb)))

def decCas (f : Fields) (ext : List Word32) : Dec :=
  oneWord ext fun w =>
    need (w.extractLsb' 15 17 = 0 && w.extractLsb' 0 4 = 0) .fields
      (need (w.getLsbD 5) .code
        (known (Scope.ofCode (w.extractLsb' 6 3)) fun sc =>
          .ok (.cas (w.getLsbD 4) sc f.d f.a f.b f.ma f.mb (w.extractLsb' 9 6))))

/-- The X class (R93). -/
def decodeX (f : Fields) (ext : List Word32) : Dec :=
  match f.op.toNat with
  | 0x01 => dec0 .commit f ext
  | 0x02 => oneWord ext fun w =>
      need (f.d = 0 && f.a = 0 && f.b = 0 && !f.ma && !f.mb && w.extractLsb' 3 29 = 0) .fields
        (known (Scope.ofCode (w.extractLsb' 0 3)) fun sc => .ok (.fence sc))
  | 0x03 => dec0 .ifence f ext
  | 0x04 => decAmo f ext
  | 0x05 => decCas f ext
  | 0x08 => dec0 .yield f ext
  | 0x09 => decA .await f ext
  | 0x0A => dec3 .tspawn f ext
  | 0x0B => decA .texit f ext
  | 0x10 => decD .fnew f ext
  | 0x11 => decAB .fset f ext
  | 0x12 => noWord ext (need (!f.mb && f.b.extractLsb' 1 5 = 0) .fields
      (.ok (if f.b.getLsbD 0 then .fgetS f.d f.a f.ma else .fgetV f.d f.a f.ma)))
  | 0x13 => decA .ffail f ext
  | 0x14 => decA .ffree f ext
  | 0x18 => decD .cnew f ext
  | 0x19 => decA .cjoin f ext
  | 0x1A => decA .cleave f ext
  | 0x1B => decA .cfree f ext
  | 0x1C => dec2 .barrive f ext
  | 0x1D => decAB .bexpect f ext
  | 0x1E => decAB .bwait f ext
  | 0x1F => dec3 .btest f ext
  | 0x20 => decN .sysr f ext
  | 0x21 => decN .sysw f ext
  | 0x22 => need (f.d = 0) .fields (decN (fun _ n => .trap n) f ext)
  | 0x23 => dec0 .eret f ext
  | 0x24 => dec0 .uiret f ext
  | 0x25 => need (f.d = 0) .fields (decN (fun _ n => .brk n) f ext)
  | 0x26 => dec0 .halt f ext
  | 0x28 => decA .waitt f ext
  | 0x29 => decAB .tout f ext
  | 0x2A => dec3 .imsum f ext
  | 0x30 => decD .scan f ext
  | 0x31 => decA .ctxsave f ext
  | 0x32 => decA .ctxload f ext
  | 0x40 => dec2 .fexp2 f ext
  | 0x41 => dec2 .flog2 f ext
  | 0x42 => dec2 .frcp f ext
  | 0x43 => dec2 .frsq f ext
  | 0x44 => dec2 .fsin f ext
  | 0x45 => dec2 .fcos f ext
  | 0x46 => dec2 .ftanh f ext
  | 0x47 => dec2 .fsigm f ext
  | _ => .error .opcode

/-- R80: the class of a slot word is fixed by its position. -/
def decodeAt (pos : Nat) (f : Fields) (ext : List Word32) : Dec :=
  match pos with
  | 0 => decodeS true f ext
  | 1 => decodeS false f ext
  | 2 => decodeV f ext
  | 3 => decodeV f ext
  | 4 => decodeT true f ext
  | 5 => decodeT false f ext
  | 6 => decodeM f ext
  | _ => decodeX f ext

/-! ### Bundles (R78, R79, R83) -/

/-- A slot of a decoded bundle: its position, its guard (R86) and its instruction. -/
structure Slot where
  pos : BitVec 3
  gn : Bool
  g : PReg
  instr : Instr
deriving DecidableEq, Repr

/-- The header of a bundle (R78). -/
structure Header where
  pres : BitVec 8
  surr : BitVec 8
  rs : Bool
  cgn : Bool
  cg : PReg
  low : BitVec 10
deriving DecidableEq, Repr

def Header.ofWord (w : Word32) : Header :=
  { pres := w.extractLsb' 24 8, surr := w.extractLsb' 16 8, rs := w.getLsbD 15, cgn := w.getLsbD 14
    cg := w.extractLsb' 10 4, low := w.extractLsb' 0 10 }

def Header.toWord (h : Header) : Word32 :=
  h.pres ++ h.surr ++ BitVec.ofBool h.rs ++ BitVec.ofBool h.cgn ++ h.cg ++ h.low

/-- Number of words after the header (R79). -/
def Header.count (h : Header) : Nat := ((List.range 8).filter fun i => h.pres.getLsbD i).length

/-- R79: length in bytes. -/
def Header.bytes (h : Header) : Nat := 4 * (1 + h.count)

/-- A decoded bundle. -/
structure Bundle where
  hdr : Header
  slots : List Slot
deriving DecidableEq, Repr

/-- The word of each present position, in increasing position order. -/
def Header.place (h : Header) : Nat → List Word32 → Nat → List (Nat × Word32)
  | _, _, 0 => []
  | p, ws, k + 1 =>
    if h.pres.getLsbD p then
      match ws with
      | w :: rest => (p, w) :: h.place (p + 1) rest k
      | [] => []
    else h.place (p + 1) ws k

/-- The walk of R83 to the left over surrendered words, from position j - 1. -/
def Header.ownerLeft (h : Header) : Nat → Option Nat
  | 0 => none
  | j + 1 => if h.pres.getLsbD j then (if h.surr.getLsbD j then h.ownerLeft j else some j) else none

/-- R83: the owner of the surrendered word at position i. -/
def Header.owner (h : Header) (i : Nat) : Option Nat :=
  if i = 6 && h.pres.getLsbD 7 && !h.surr.getLsbD 7 then some 7 else h.ownerLeft i

/-- The words that the instruction at position j receives, in increasing position order (R83). -/
def Header.wordsFor (h : Header) (j : Nat) (ps : List (Nat × Word32)) : List Word32 :=
  (ps.filter fun p => h.surr.getLsbD p.1 && h.owner p.1 == some j).map (·.2)

/-- The slots of a bundle, in increasing position order. -/
def decodeSlots (h : Header) (ps : List (Nat × Word32)) : List (Nat × Word32) → Except Reject (List Slot)
  | [] => .ok []
  | (p, w) :: rest =>
    if h.surr.getLsbD p then decodeSlots h ps rest
    else
      match decodeAt p (Fields.ofWord w) (h.wordsFor p ps) with
      | .error r => .error r
      | .ok i =>
        match decodeSlots h ps rest with
        | .error r => .error r
        | .ok sl => .ok (⟨BitVec.ofNat 3 p, w.getLsbD 31, w.extractLsb' 27 4, i⟩ :: sl)

/-- A bundle from its words, header first (R78 to R85, the header, surrender, fields and opcode checks of
R91). Words after the bundle are ignored. -/
def decodeBundle (ws : List Word32) : Except Reject Bundle :=
  match ws with
  | [] => .error .short
  | w :: rest =>
    let h := Header.ofWord w
    let ps := h.place 0 rest 8
    if h.low ≠ 0 || (h.cgn && h.cg = 0) then .error .header
    else if h.surr &&& ~~~h.pres ≠ 0 || h.surr.getLsbD 0
        || !((List.range 8).all fun i => !h.surr.getLsbD i || (h.owner i).isSome) then .error .surrender
    else if ps.length ≠ h.count then .error .short
    else
      match decodeSlots h ps ps with
      | .error r => .error r
      | .ok sl => .ok ⟨h, sl⟩

/-! ### The encoder -/

/-- The position, the fields of the slot word and the extension words of an instruction; guard p0. -/
structure Enc where
  pos : Nat
  op : BitVec 7
  d : BitVec 6
  a : BitVec 6
  b : BitVec 6
  ma : Bool
  mb : Bool
  ext : List Word32
deriving DecidableEq, Repr

/-- The fields of an encoded instruction under the guard (gn, g). -/
def Enc.fields (e : Enc) (gn : Bool) (g : PReg) : Fields := ⟨gn, g, e.op, e.d, e.a, e.b, e.ma, e.mb⟩

def enc3 (pos : Nat) (op : BitVec 7) (d a b : BitVec 6) (ma mb : Bool) : Option Enc :=
  some ⟨pos, op, d, a, b, ma, mb, []⟩

/-- An immediate form: bits [7:0] hold v. -/
def encI (pos : Nat) (op : BitVec 7) (d a : BitVec 6) (v : BitVec 8) (ext : List Word32) : Option Enc :=
  some ⟨pos, op, d, a, v.extractLsb' 2 6, v.getLsbD 1, v.getLsbD 0, ext⟩

def encImm (pos : Nat) (op : BitVec 7) (d a : BitVec 6) (i : Imm) : Option Enc :=
  match i with
  | .short v => encI pos op d a v []
  | .long w => encI pos op d a 0 [w]

def encShift (op : BitVec 7) (d a n : BitVec 6) (long : Bool) : Option Enc :=
  if long then encI 0 op d a 0 [(0 : BitVec 26) ++ n] else encI 0 op d a ((0 : BitVec 2) ++ n) []

def encLoop (op : BitVec 7) (d a : BitVec 6) (ma : Bool) (l : LoopLen) : Option Enc :=
  match l with
  | .short n => some ⟨0, op, d, a, n, ma, false, []⟩
  | .long n => some ⟨0, op, d, a, 0, ma, false, [(0 : BitVec 19) ++ n]⟩

/-- A number n = A * 64 + B. -/
def encN (op : BitVec 7) (d : BitVec 6) (n : BitVec 12) : Option Enc :=
  some ⟨7, op, d, n.extractLsb' 6 6, n.extractLsb' 0 6, false, false, []⟩

def k6 (k : KReg) : BitVec 6 := (0 : BitVec 3) ++ k
def p6 (p : PReg) : BitVec 6 := (0 : BitVec 2) ++ p

/-- The encoding of a slot instruction (R81, R93 and each instruction's own table); none for a step that is
no slot instruction. -/
def encodeSlot (i : Instr) : Option Enc :=
  match i with
  | .nop => enc3 0 0x00 0 0 0 false false
  | .add d a b ma mb => enc3 0 0x01 d a b ma mb
  | .sub d a b ma mb => enc3 0 0x02 d a b ma mb
  | .mul d a b ma mb => enc3 0 0x03 d a b ma mb
  | .mulh d a b ma mb => enc3 0 0x04 d a b ma mb
  | .mulhu d a b ma mb => enc3 0 0x05 d a b ma mb
  | .div d a b ma mb => enc3 0 0x06 d a b ma mb
  | .divu d a b ma mb => enc3 0 0x07 d a b ma mb
  | .rem d a b ma mb => enc3 0 0x08 d a b ma mb
  | .remu d a b ma mb => enc3 0 0x09 d a b ma mb
  | .and d a b ma mb => enc3 0 0x0A d a b ma mb
  | .or d a b ma mb => enc3 0 0x0B d a b ma mb
  | .xor d a b ma mb => enc3 0 0x0C d a b ma mb
  | .shl d a b ma mb => enc3 0 0x0D d a b ma mb
  | .shr d a b ma mb => enc3 0 0x0E d a b ma mb
  | .sra d a b ma mb => enc3 0 0x0F d a b ma mb
  | .min d a b ma mb => enc3 0 0x10 d a b ma mb
  | .max d a b ma mb => enc3 0 0x11 d a b ma mb
  | .minu d a b ma mb => enc3 0 0x12 d a b ma mb
  | .maxu d a b ma mb => enc3 0 0x13 d a b ma mb
  | .clz d a ma => enc3 0 0x14 d a 0 ma false
  | .ctz d a ma => enc3 0 0x15 d a 0 ma false
  | .popc d a ma => enc3 0 0x16 d a 0 ma false
  | .sext d a n ma => enc3 0 0x17 d a n ma false
  | .zext d a n ma => enc3 0 0x18 d a n ma false
  | .bfx d a b ma mb => enc3 0 0x19 d a b ma mb
  | .bfi d a b ma mb => enc3 0 0x1A d a b ma mb
  | .sel d a b ma mb => enc3 0 0x1B d a b ma mb
  | .mov d a ma => enc3 0 0x1C d a 0 ma false
  | .addi d a v => encImm 0 0x20 d a v
  | .andi d a v => encImm 0 0x21 d a v
  | .ori d a v => encImm 0 0x22 d a v
  | .xori d a v => encImm 0 0x23 d a v
  | .shli d a n long => encShift 0x24 d a n long
  | .shri d a n long => encShift 0x25 d a n long
  | .srai d a n long => encShift 0x26 d a n long
  | .movi d v =>
    match v with
    | .short v => encI 0 0x27 d 0 v []
    | .long w => encI 0 0x27 d 0 0 [w]
    | .wide w => encI 0 0x27 d 0 0 [w.extractLsb' 0 32, w.extractLsb' 32 32]
  | .pcmp d cc a b ma mb u =>
    match u with
    | none => some ⟨0, 0x30, cc.code ++ d, a, b, ma, mb, []⟩
    | some u => some ⟨0, 0x30, cc.code ++ d, a, b, ma, mb, [(0 : BitVec 31) ++ BitVec.ofBool u]⟩
  | .pcmpi d cc a v =>
    match v with
    | .short v => encI 0 0x31 (cc.code ++ d) a v []
    | .word u v => encI 0 0x31 (cc.code ++ d) a 0 [v ++ BitVec.ofBool u]
  | .pand d a b => enc3 0 0x32 (p6 d) (p6 a) (p6 b) false false
  | .por d a b => enc3 0 0x33 (p6 d) (p6 a) (p6 b) false false
  | .pxor d a b => enc3 0 0x34 (p6 d) (p6 a) (p6 b) false false
  | .pandn d a b => enc3 0 0x35 (p6 d) (p6 a) (p6 b) false false
  | .pts d => enc3 0 0x36 d 0 0 false false
  | .pfs a ma => enc3 0 0x37 0 a 0 ma false
  | .ld d a size sx ma off =>
    some ⟨0, 0x40, d, a, (0 : BitVec 3) ++ BitVec.ofBool sx ++ size, ma, false, off.toList⟩
  | .st a b size ma mb off => some ⟨0, 0x41, (0 : BitVec 4) ++ size, a, b, ma, mb, off.toList⟩
  | .ldsp d a n ma => enc3 0 0x42 d a n ma false
  | .stsp n a b ma mb => enc3 0 0x43 n a b ma mb
  | .br a ma => enc3 0 0x50 0 a 0 ma false
  | .bri v => encImm 0 0x51 0 0 v
  | .call d a ma => enc3 0 0x52 d a 0 ma false
  | .calli d v => encImm 0 0x53 d 0 v
  | .ret a ma => enc3 0 0x54 0 a 0 ma false
  | .bswap a ma => enc3 0 0x57 0 a 0 ma false
  | .loop a ma l => encLoop 0x55 0 a ma l
  | .loopp a ma st l => encLoop 0x56 ((0 : BitVec 3) ++ st) a ma l
  | .vsetshapeReg a ma => enc3 2 0x01 0 a 0 ma false
  | .vsetshapeImm w => some ⟨2, 0x01, 0, 0, 0, false, false, [w]⟩
  | .vadd d a b ma mb => enc3 2 0x02 d a b ma mb
  | .vsub d a b ma mb => enc3 2 0x03 d a b ma mb
  | .vmul d a b ma mb => enc3 2 0x04 d a b ma mb
  | .vfma d a b ma mb => enc3 2 0x05 d a b ma mb
  | .vfms d a b ma mb => enc3 2 0x06 d a b ma mb
  | .vmin d a b ma mb => enc3 2 0x07 d a b ma mb
  | .vmax d a b ma mb => enc3 2 0x08 d a b ma mb
  | .vabs d a ma => enc3 2 0x09 d a 0 ma false
  | .vneg d a ma => enc3 2 0x0A d a 0 ma false
  | .vadds d a b ma mb => enc3 2 0x0B d a b ma mb
  | .vsubs d a b ma mb => enc3 2 0x0C d a b ma mb
  | .vmulh d a b ma mb => enc3 2 0x0D d a b ma mb
  | .vand d a b ma mb => enc3 2 0x0E d a b ma mb
  | .vor d a b ma mb => enc3 2 0x0F d a b ma mb
  | .vxor d a b ma mb => enc3 2 0x10 d a b ma mb
  | .vnot d a ma => enc3 2 0x11 d a 0 ma false
  | .vshl d a b ma mb => enc3 2 0x12 d a b ma mb
  | .vshr d a b ma mb => enc3 2 0x13 d a b ma mb
  | .vsra d a b ma mb => enc3 2 0x14 d a b ma mb
  | .vcmp d cc a b ma mb => enc3 2 0x15 (cc.code ++ d) a b ma mb
  | .vsel d a k ma => enc3 2 0x16 d a (k6 k) ma false
  | .vsplatReg d a ma => enc3 2 0x17 d a 0 ma false
  | .vsplatImm d w => some ⟨2, 0x17, d, 0, 0, false, false, [w]⟩
  | .vbcast d a b ma mb => enc3 2 0x18 d a b ma mb
  | .vextr d a b ma mb => enc3 2 0x19 d a b ma mb
  | .vins d a b ma mb => enc3 2 0x1A d a b ma mb
  | .viota d k => enc3 2 0x1B d (k6 k) 0 false false
  | .vcvt d a ma dt src rm scale =>
    some ⟨2, 0x1C, d, a, 0, ma, false, [(0 : BitVec 14) ++ scale ++ rm.code ++ src.code ++ dt.code]⟩
  | .vreq d a ma dt src rm sup scale =>
    some ⟨2, 0x1D, d, a, 0, ma, false,
      [(0 : BitVec 13) ++ scale ++ BitVec.ofBool sup ++ rm.code ++ src.code ++ dt.code]⟩
  | .vred d a ma op ax rm =>
    some ⟨2, 0x1E, d, a, 0, ma, false, [(0 : BitVec 25) ++ rm.code ++ ax.code ++ op.code]⟩
  | .vscan d a ma op col ex =>
    some ⟨2, 0x1F, d, a, (0 : BitVec 2) ++ BitVec.ofBool ex ++ BitVec.ofBool col ++ op.code, ma, false, []⟩
  | .vperm d a b ma mb => enc3 2 0x20 d a b ma mb
  | .vtrans d a ma => enc3 2 0x21 d a 0 ma false
  | .vgath d a b ma mb => enc3 2 0x22 d a b ma mb
  | .vscat d a b ma mb => enc3 2 0x23 d a b ma mb
  | .vdot4 d a b ma mb => enc3 2 0x24 d a b ma mb
  | .vrng d a b ma mb => enc3 2 0x25 d a b ma mb
  | .vcopy d a ma => enc3 2 0x26 d a 0 ma false
  | .kand d a b => enc3 2 0x27 (k6 d) (k6 a) (k6 b) false false
  | .kor d a b => enc3 2 0x28 (k6 d) (k6 a) (k6 b) false false
  | .kxor d a b => enc3 2 0x29 (k6 d) (k6 a) (k6 b) false false
  | .knot d a => enc3 2 0x2A (k6 d) (k6 a) 0 false false
  | .kpopc d a => enc3 2 0x2B d (k6 a) 0 false false
  | .ktop d a => enc3 2 0x2C d (k6 a) 0 false false
  | .vsetwin a ma => enc3 2 0x2D 0 a 0 ma false
  | .vsetix d a ma => enc3 2 0x2E ((0 : BitVec 4) ++ d) a 0 ma false
  | .fexp2 d a ma => enc3 7 0x40 d a 0 ma false
  | .flog2 d a ma => enc3 7 0x41 d a 0 ma false
  | .frcp d a ma => enc3 7 0x42 d a 0 ma false
  | .frsq d a ma => enc3 7 0x43 d a 0 ma false
  | .fsin d a ma => enc3 7 0x44 d a 0 ma false
  | .fcos d a ma => enc3 7 0x45 d a 0 ma false
  | .ftanh d a ma => enc3 7 0x46 d a 0 ma false
  | .fsigm d a ma => enc3 7 0x47 d a 0 ma false
  | .tdesc d a ma => enc3 4 0x01 (p6 d) a 0 ma false
  | .tld d a b ma mb t => some ⟨4, 0x02, d, a, b, ma, mb, [(0 : BitVec 28) ++ t]⟩
  | .tldp d a b ma mb t p1 p2 => some ⟨4, 0x03, d, a, b, ma, mb, [(0 : BitVec 20) ++ p2 ++ p1 ++ t]⟩
  | .tldm d a b ma mb t c => some ⟨4, 0x04, d, a, b, ma, mb, [(0 : BitVec 22) ++ c ++ t]⟩
  | .tlds d a ma => enc3 4 0x05 d a 0 ma false
  | .tst d a b ma mb t => some ⟨4, 0x06, d, a, b, ma, mb, [(0 : BitVec 28) ++ t]⟩
  | .tstM d a b ma mb t p1 p2 => some ⟨4, 0x06, d, a, b, ma, mb, [(1 : BitVec 20) ++ p2 ++ p1 ++ t]⟩
  | .tpf t a b ma mb => enc3 4 0x07 (p6 t) a b ma mb
  | .tpfl t a b ma mb n => some ⟨4, 0x08, p6 t, a, b, ma, mb, [(0 : BitVec 24) ++ n]⟩
  | .imld a b ma mb => enc3 4 0x09 0 a b ma mb
  | .mmaI8 d a b ma mb => enc3 6 0x01 d a b ma mb
  | .mmaBf d a b ma mb => enc3 6 0x02 d a b ma mb
  | .mmaT6 d a b ma mb => enc3 6 0x03 d a b ma mb
  | .mmaT8 d a b ma mb => enc3 6 0x04 d a b ma mb
  | .mmaT12 d a b ma mb => enc3 6 0x05 d a b ma mb
  | .mmaAd d a b ma mb => enc3 6 0x06 d a b ma mb
  | .mzero d => enc3 6 0x08 d 0 0 false false
  | .mfinI d => enc3 6 0x09 d 0 0 false false
  | .mfinF d => enc3 6 0x09 d 1 0 false false
  | .mlimImm n => enc3 6 0x0A 0 n 0 false false
  | .mlimReg a ma => enc3 6 0x0A 1 a 0 ma false
  | .mbud a b ma mb => enc3 6 0x0B 0 a b ma mb
  | .mrd d sel clr => enc3 6 0x0C d (BitVec.ofBool clr ++ (0 : BitVec 3) ++ sel) 0 false false
  | .mcvt d a ma toBf => enc3 6 0x0D d a ((0 : BitVec 5) ++ BitVec.ofBool toBf) ma false
  | .commit => enc3 7 0x01 0 0 0 false false
  | .fence sc => some ⟨7, 0x02, 0, 0, 0, false, false, [(0 : BitVec 29) ++ sc.code]⟩
  | .ifence => enc3 7 0x03 0 0 0 false false
  | .amo op wide sc d a b ma mb =>
    some ⟨7, 0x04, d, a, b, ma, mb, [(0 : BitVec 23) ++ sc.code ++ (1 : BitVec 1) ++ BitVec.ofBool wide ++ op.code]⟩
  | .cas wide sc d a b ma mb c =>
    some ⟨7, 0x05, d, a, b, ma, mb,
      [(0 : BitVec 17) ++ c ++ sc.code ++ (1 : BitVec 1) ++ BitVec.ofBool wide ++ (0 : BitVec 4)]⟩
  | .yield => enc3 7 0x08 0 0 0 false false
  | .await a ma => enc3 7 0x09 0 a 0 ma false
  | .tspawn d a b ma mb => enc3 7 0x0A d a b ma mb
  | .texit a ma => enc3 7 0x0B 0 a 0 ma false
  | .fnew d => enc3 7 0x10 d 0 0 false false
  | .fset a b ma mb => enc3 7 0x11 0 a b ma mb
  | .fgetV d a ma => enc3 7 0x12 d a 0 ma false
  | .fgetS d a ma => enc3 7 0x12 d a 1 ma false
  | .ffail a ma => enc3 7 0x13 0 a 0 ma false
  | .ffree a ma => enc3 7 0x14 0 a 0 ma false
  | .cnew d => enc3 7 0x18 d 0 0 false false
  | .cjoin a ma => enc3 7 0x19 0 a 0 ma false
  | .cleave a ma => enc3 7 0x1A 0 a 0 ma false
  | .cfree a ma => enc3 7 0x1B 0 a 0 ma false
  | .barrive d a ma => enc3 7 0x1C d a 0 ma false
  | .bexpect a b ma mb => enc3 7 0x1D 0 a b ma mb
  | .bwait a b ma mb => enc3 7 0x1E 0 a b ma mb
  | .btest d a b ma mb => enc3 7 0x1F d a b ma mb
  | .sysr d n => encN 0x20 d n
  | .sysw d n => encN 0x21 d n
  | .trap n => encN 0x22 0 n
  | .eret => enc3 7 0x23 0 0 0 false false
  | .uiret => enc3 7 0x24 0 0 0 false false
  | .brk n => encN 0x25 0 n
  | .halt => enc3 7 0x26 0 0 0 false false
  | .waitt a ma => enc3 7 0x28 0 a 0 ma false
  | .tout a b ma mb => enc3 7 0x29 0 a b ma mb
  | .imsum d a b ma mb => enc3 7 0x2A d a b ma mb
  | .scan d => enc3 7 0x30 d 0 0 false false
  | .ctxsave a ma => enc3 7 0x31 0 a 0 ma false
  | .ctxload a ma => enc3 7 0x32 0 a 0 ma false
  | _ => none

/-- The words of a bundle that holds the one instruction i under guard p0, at the position encodeSlot gives,
with its extension words in the positions R83 gives it; or the header of an empty bundle. Empty for a step
that has no encoding. -/
def encode (i : Instr) : List Word32 :=
  match i with
  | .emptyBundle rs cgn cg => [Header.toWord ⟨0, 0, rs, cgn, cg, 0⟩]
  | _ =>
    match encodeSlot i with
    | none => []
    | some e =>
      let w := (e.fields false 0).toWord
      let one : BitVec 8 := (1 : BitVec 8) <<< e.pos
      match e.ext with
      | [] => [Header.toWord ⟨one, 0, false, false, 0, 0⟩, w]
      | [x] =>
        if e.pos = 7 then [Header.toWord ⟨0xC0, 0x40, false, false, 0, 0⟩, x, w]
        else [Header.toWord ⟨one ||| (one <<< 1), one <<< 1, false, false, 0, 0⟩, w, x]
      | x :: y :: _ => [Header.toWord ⟨0x07, 0x06, false, false, 0, 0⟩, w, x, y]

/-- The one step that a bundle stands for: an empty bundle, or the instruction of its only slot. -/
def Bundle.single (b : Bundle) : Option Instr :=
  match b.slots with
  | [] => if b.hdr.pres = 0 then some (.emptyBundle b.hdr.rs b.hdr.cgn b.hdr.cg) else none
  | [sl] => some sl.instr
  | _ => none

/-- The words of a table word: 32-bit words from bit 0 up, nine of them, the longest bundle (R79). -/
def tableWords (w : Nat) : List Word32 := (List.range 9).map fun j => BitVec.ofNat 32 (w >>> (32 * j))

/-- The instruction the decoder reads from a word of spec/opcode_table.json: the first 32 bits are the
header, later words follow; the bits above the given ones are zero. -/
def decodeTableWord (_nbits w : Nat) : Option Instr :=
  match decodeBundle (tableWords w) with
  | .ok b => b.single
  | .error _ => none

end Sys2Proof
end

