-- ==== Sys2Proof/Config.lean ====
section
/-! DEFINITION. Config.lean: what the spec leaves open as free values, constants without a body (log 9), and
the fixed figures of the part that several chapters use. -/

namespace Sys2Proof.Config

/-- A value the spec does not fix: data another device or the host returns, the old value of a remote
atomic, the line an untracked copy gives. Applied to State.free, which each use advances (log 9). -/
opaque freeWord : Nat → Word

/-- A line of 64 bytes the spec does not fix (log 9). -/
opaque freeLine : Nat → BitVec 512

/-- A choice the spec does not fix (log 9). -/
opaque freeBool : Nat → Bool

/-- R341: the firmware version of the ROM, which the spec does not fix (log 9). -/
opaque firmwareVersion : BitVec 16

/-- R344: the SHA3-512 digest of the ROM, whose bytes the spec does not give (log 9). -/
opaque romDigest : BitVec 512

/-- R342: ML-DSA-87 verification (FIPS 204): whether a signature of 4,627 bytes over a digest holds under a public key of 2,592
bytes (log 16). -/
opaque verify : BitVec 20736 → BitVec 512 → BitVec 37016 → Bool

/-- R342: the four public keys fused at manufacture, which the spec does not give (log 16). -/
opaque fusedKey : Nat → BitVec 20736

/-- R346: the CRC-64 over the header and the payload of a flit, whose polynomial the spec does not give (log 62). -/
opaque crc64 : BitVec 1984 → BitVec 64

/-- R267: whether the reserved routes of a die (core, slots of each frame), which together take more than 12 slots of a
frame, put more than 12 slots on one link: the spec does not state the places of the slices and of the stage port
in the mesh (log 30). -/
opaque linkOverfull : List (Nat × Nat) → Bool

/-- CAP3.HORIZON: detector reports arrive within 96 cycles (R41, R368). -/
def horizon : Nat := 96

/-- The nominal clock in MHz (R8, R351). -/
def nominalMhz : Nat := 1700

/-- Units of 1/17 ns in one core cycle at 1.7 GHz (R8; log 10). -/
def unitsPerCycle : Nat := 10

/-- Units of TIME in one nanosecond (log 10). -/
def unitsPerNs : Nat := 17

/-- R295: tokens of a line. -/
def tokens : Nat := 256

/-- R39: guaranteed gate bytes and access-table entries of a context, and those of the core. -/
def gateCtx : Nat := 16384
def gateCore : Nat := 65536
def ratCtx : Nat := 512
def ratCore : Nat := 2048

/-- R314: tasks of a die's task table. -/
def taskTable : Nat := 16384

end Sys2Proof.Config
end

