-- ==== Sys2Proof/Machine/State.lean ====
section
/-! DEFINITION. Machine/State.lean: everything the spec gives the machine, as plain data, the reasons a
step can stop, and the state right after reset. -/

namespace Sys2Proof.Machine

/-- Reasons the machine stops with a fault. -/
inductive Fault where
  /-- Raised by every step after an uncorrected error of a stage-die table that both compute dies share:
  the device stops (R376). Safe: nothing is claimed of a stopped device. -/
  | deviceStopped
deriving DecidableEq, Repr

/-- Reasons a step has no meaning. -/
inductive Refusal where
  /-- An instruction with no meaning yet, by its mnemonic. Safe: nothing is claimed of it. -/
  | notModelled (mnemonic : String)
deriving DecidableEq, Repr

/-- The three variants of the part (R2). -/
inductive Variant where
  | hx940 | hx930 | hx920
deriving DecidableEq, Repr

/-! ### Context -/

/-- One level of the hardware loop stack (R151). pipelined is set for LOOPP (log 20). -/
structure LoopLevel where
  start : BitVec 16
  stop : BitVec 16
  remaining : Nat
  kernel : Nat
  stages : BitVec 3
  drain : Bool
  pipelined : Bool
deriving DecidableEq, Repr

/-- Statistics of MMA.AD (R207, R216): the values MRD returns under SEL 0 and SEL 1, and the counters. -/
structure MStats where
  rung6 : Word
  rung8 : Word
  replays : BitVec 32
  widened : BitVec 32
  adops : BitVec 32
deriving DecidableEq, Repr

/-- The part of a context that the region checkpoint holds (R38, R122, R125, R207, R381). evAt is the cycle and the
place in program order of the event that ferec records (R121). -/
structure Regs where
  pc : BitVec 16
  s : Vector Word 64
  sEmpty : BitVec 64
  sh : Vector Word 8
  shEmpty : BitVec 8
  p : BitVec 16
  k : Vector (BitVec 2048) 8
  ix : Vector Word 4
  loops : List LoopLevel
  fflags : Word
  ferec : Word
  evAt : Nat × Nat
  mode : Bool
  dbgen : Bool
  uien : Bool
  inui : Bool
  active : Bool
  stats : MStats
deriving DecidableEq, Repr

/-- Matrix state that is not checkpointed (R207). -/
structure MatrixRegs where
  mlim : BitVec 6
  sat6 : BitVec 13
  und6 : BitVec 13
  can6 : BitVec 13
  sat8 : BitVec 13
  und8 : BitVec 13
  can8 : BitVec 13
  cexp : BitVec 4
  cont : Bool
deriving DecidableEq, Repr

/-- The trap registers (R382); TCAUSE.ACTIVE is kept in Regs.active. -/
structure TrapRegs where
  tvec : Word
  tcause : Word
  tepc : Word
  tstatus : Word
  tval : Word
  tovid : Word
  tov : Vector Word 8
  tscr : Vector Word 2
deriving DecidableEq, Repr

/-- One byte in the store gate: its key (physical byte address, or a remote key), the place of its store
in the context's program order, and the byte (R39, R92, R203). -/
structure GateByte where
  key : Nat
  seq : Nat
  val : Byte
deriving DecidableEq, Repr

/-- One timed-output entry (R243). -/
structure TOutEntry where
  time : Word
  mask : BitVec 16
  level : BitVec 16
deriving DecidableEq, Repr

/-- How a byte of memory is reached (R259, R289), with the L2 lock class of a page that caches hold (R266); uncached is a
tracked page with C = 0 (R295). -/
inductive PageKind where
  | tracked (cls : BitVec 4)
  | uncached
  | untracked (cls : BitVec 4)
  | ordered | remote
deriving DecidableEq, Repr

/-- A store to a strongly-ordered page, waiting for its bundle's commit: its place in program order, the
physical address, the width in bytes and the data (R43, R92, R144). -/
structure OrdStore where
  seq : Nat
  pa : Nat
  n : Nat
  val : Word
deriving DecidableEq, Repr

/-- What an outstanding long-latency result writes when it lands (R65). A load keeps the key and the page
kind of each of its bytes and reads them when it lands (R142, R275). mrd stands for an
MRD that the matrix unit has not performed yet (R216). -/
inductive PendKind where
  | sreg (shadow : Bool) (r : SReg) (v : Word)
  | slab (dests : List Nat) (data side : List Host.Cell)
  | load (shadow : Bool) (r : SReg) (keys : List (Nat × PageKind)) (sx : Bool) (seq : Nat)
  | mrd (shadow : Bool) (r : SReg)
deriving DecidableEq, Repr

/-- An outstanding long-latency result: its place in program order, the earliest cycle it can land and the cycle of its bound, the
region, position and bundle that issued it, whether its instruction can raise a flag, and the flags it raises
at its landing (R65, R120, R269). -/
structure Pend where
  seq : Nat
  early : Nat
  due : Nat
  region : Nat
  pos : BitVec 3
  addr : BitVec 16
  fp : Bool
  flags : BitVec 5
  kind : PendKind
deriving DecidableEq, Repr

/-- Phases of a commit (R41): merge from its confirmation to step 5, ordered while accesses to strongly-ordered pages
are still to be performed (R43, R259). -/
inductive CommitPhase where
  | idle | drain | horizon | gather | merge | ordered | done
deriving DecidableEq, Repr

/-- A commit in progress: its phase and the cycle its horizon wait, or its merge, ends. -/
structure CommitState where
  phase : CommitPhase
  hEnd : Nat
deriving DecidableEq, Repr

/-- What a context does once a commit that no X operation asked for is done (R37, R154, R387, R388). -/
inductive After where
  | none | park | parkAt (pc : BitVec 16) | failTask | halt
deriving DecidableEq, Repr

/-- A bundle whose X operation waits for the commit, with all that its completion needs (R224, R387): the translation of an
atomic's first byte, once it has been made (R263), and the message by which another device was asked for it (R408). -/
structure Inflight where
  instr : Instr
  addr : BitVec 16
  next : BitVec 16
  br : Option (BitVec 16)
  overlay : List (Byte × Word)
  arrived : Bool
  key : Option (Nat × PageKind)
  msg : Option (BitVec 4 × Nat)
deriving DecidableEq, Repr

/-- Why a task is PARKED (R319). -/
inductive ParkWhy where
  | none | yield | await (fut : BitVec 32) | preempt | bucket | segment | hold
deriving DecidableEq, Repr

/-- FREE, running (READY or BLOCKED) or PARKED (R23). -/
inductive Occ where
  | free | running | parked
deriving DecidableEq, Repr

/-- A hardware context (R23, R51). reslot is the position a re-entered bundle starts from (R387), ckReslot the same for
the bundle the region starts with; rsDue tells of the RS bit of a skipped bundle (R37); homeAns holds the old value of an
atomic that a line's home has performed for the context (R229, R259), commitWin the window of its last commit (R226). readHit
tells of a race (false) or an overflow (true) that TSPAWN's read of its record has met (R379, R383), trapOf names the region
attempt that the last trapped rollback ended, of which reports may still come (R391). -/
structure Ctx where
  occ : Occ
  task : Option Nat
  r : Regs
  ckpt : Regs
  td : Vector (BitVec 512) 16
  vshape : BitVec 32
  vwin : BitVec 32
  slabEmpty : List Nat
  spill : List Host.Cell
  statusHi : Word
  uivec : Word
  uiepc : Word
  uicause : Word
  tr : TrapRegs
  mx : MatrixRegs
  opened : Bool
  region : Nat
  seq : Nat
  gate : List GateByte
  scalarLines : List Nat
  recs : List (Nat × BitVec 64)
  touts : List TOutEntry
  tpfDone : Nat
  tldmSubs : List (BitVec 32)
  soStores : List OrdStore
  pend : List Pend
  cm : CommitState
  after : After
  infl : Option Inflight
  reslot : Option (BitVec 3)
  ckReslot : Option (BitVec 3)
  rsDue : Bool
  run : Nat
  race : Nat
  guarded : Bool
  guardLines : List Nat
  solo : Bool
  preemptReq : Bool
  halted : Bool
  waitCast : Option (BitVec 32)
  waitWindow : Option Nat
  predAge : Vector (BitVec 2) 16
  skips : Nat
  stale : List Host.Cell
  hostUnacked : Nat
  homeAns : Option Word
  commitWin : Nat
  readHit : Option Bool
  trapOf : Option Nat
deriving DecidableEq, Repr

/-! ### Core -/

/-- A tensor descriptor (R192). -/
abbrev Desc := BitVec 512


/-- Commands of the matrix unit (R208). -/
inductive MatOp where
  | i8 | bf | t6 | t8 | t12 | ad | zero | finI | finF
  | rd (shadow : Bool) (r : SReg) (sel : BitVec 2) (clr : Bool)
  | cvt (toBf : Bool)
deriving DecidableEq, Repr

/-- A queued matrix command with the matrix state it took at issue and, once it is settled, the last cycle before it starts (R208);
rung counts the rungs an MMA.AD has squashed, decided its verdict, ceiling its stop for lack of T12 (R214); checked tells that the
parity of what it reads has been checked (R368). -/
structure MatCmd where
  x : CtxId
  region : Nat
  seq : Nat
  addr : BitVec 16
  issue : Nat
  op : MatOp
  d : Nat
  a : Nat
  b : Nat
  mx : MatrixRegs
  begun : Option Nat
  rung : Nat
  decided : Bool
  ceiling : Bool
  c6 : Word
  c8 : Word
  checked : Bool
deriving DecidableEq, Repr

/-- Commands of the tile-walk engine (R205). -/
inductive TileOp where
  | ld | ldp
  | ldm (handle : BitVec 32) (members : List Nat)
  | lds (src : Word)
  | st | stM
  | pf
  | pfl (count : Nat)
  | imld (src : Word) (dst len : Nat)
deriving DecidableEq, Repr

/-- A queued tile command: descriptors and coordinates as read at issue, its occupancy of the
port, the cycle that ends and the cycle of its bound (R195, R205); todo lists the lines that a prefetch still waits for,
once it has begun (R204). -/
structure TileCmd where
  x : CtxId
  region : Nat
  pos : BitVec 3
  addr : BitVec 16
  seq : Nat
  occ : Nat
  occEnd : Nat
  due : Nat
  op : TileOp
  d : Nat
  td : Desc
  p1 : Desc
  p2 : Desc
  c0 : Nat
  c1 : Nat
  c2 : Nat
  c3 : Nat
  todo : Option (List (Nat × PageKind))
deriving DecidableEq, Repr

/-- A segment of a running order (R330). -/
structure Segment where
  ctx : CtxId
  fromQueue : Bool
  queue : BitVec 6
  image : BitVec 16
  entry : BitVec 16
  cost : Nat
  slack : Nat
  hcost : Nat
  args : Word
deriving DecidableEq, Repr

/-- A core's running order and where it stands (R330, R331). -/
structure RunOrder where
  segs : List Segment
  startNs : Nat
  cur : Nat
  slotStart : Nat
  started : Bool
  live : Bool
  trapped : Bool
deriving DecidableEq, Repr

/-- An in-field scan in progress (R246, R418). -/
structure ScanRun where
  ctx : CtxId
  startNs : Nat
  readyAtStart : List Nat
deriving DecidableEq, Repr

/-- A detector report on its way: the cycle it arrives, its code, the context and the region attempt it concerns, its
address and syndrome (R368, R369, R429, R430). -/
structure Report where
  due : Nat
  code : Byte
  x : CtxId
  region : Nat
  addr : Word
  synd : BitVec 16
deriving DecidableEq, Repr

/-- Debits a core has not yet reported for one queue (R328). -/
structure Debit where
  die : Bool
  queue : BitVec 6
  cyc : Nat
  byt : Nat
  en : Nat
deriving DecidableEq, Repr

/-- An entry of a translation look-aside buffer: tensor, page number of its leaf's size, whether the leaf is a large one, and
whether Wyane has locked the entry (R262, R263). -/
structure TlbEnt where
  tid : Nat
  page : Nat
  large : Bool
  locked : Bool
deriving DecidableEq, Repr

/-- A retirement in progress (R415); scanned tells of one that a failing scan began (R422), kept the contexts whose tasks could
not be saved or started again elsewhere, and run on. -/
structure Retiring where
  startNs : Nat
  scanned : Bool
  kept : BitVec 4
deriving DecidableEq, Repr

/-- A core (R13). badWords are the 32-bit words of the deep file whose parity no longer fits, counted over the
whole file (R429); scanPos counts the scans of a suspect core through the pattern sets (R420); gapUsed tells that the
idle gap has had its scan (R420). l1d lists the lines the L1D holds, teCache the tensor-entry cache and tlb the tile TLB, each
with the least recently used first (R262, R264); teFetch holds the tensor entries on their way and the cycle each arrives (R193). seen is
the cycle up to which results have landed, skew what the core has fallen behind the nominal clock by (R351, log 10). -/
structure Core where
  ready : Bool
  wings : Bool
  timed : Bool
  rclass : RClass
  ctxs : Vector Ctx 4
  df : List Host.Cell
  side : List Host.Cell
  scratch : List Host.Cell
  cycle : Nat
  brkskip : Word
  dfPart : Vector Word 4
  saveBase : Vector Word 4
  scanCtl : Word
  scanSigx : Word
  scanSigm : Word
  scanStat : Word
  scanStart : Word
  scanRun : Option ScanRun
  scanTask : Option Nat
  scanPos : BitVec 4
  gapUsed : Bool
  lastCtx : CtxId
  matQ : List MatCmd
  tileQ : List TileCmd
  sfuQ : List Nat
  vfree : Vector Nat 2
  mFree : Nat
  tFree : Nat
  resid : Vector (Option Nat) 2
  order : Option RunOrder
  badWords : List Nat
  reports : List Report
  errTimes : List Nat
  ceCount : BitVec 16
  suspect : Bool
  retiring : Option Retiring
  debits : List Debit
  lastDebit : Nat
  teCache : List Nat
  teFetch : List (Nat × Nat)
  tlb : List TlbEnt
  l1d : List Nat
  seen : Nat
  skew : Nat
deriving DecidableEq, Repr

/-! ### Memory, tokens and the arbiter -/

/-- Tokens in one place: count, owner bit, dirty bit (R295), and whether the place holds valid data (R296). -/
structure Hold where
  count : Nat
  owner : Bool
  dirty : Bool
  valid : Bool
deriving DecidableEq, Repr

/-- States of the home for a line (R302). -/
inductive HomeSt where
  | idle | gather | forward | persist
deriving DecidableEq, Repr

/-- Tokens of a line that commits, atomics or guarded attempts of one core have gathered and no cache holds yet, and the cores
that lent some of them (R305, R277). -/
structure Gath where
  hold : Hold
  lent : List CoreId
deriving DecidableEq, Repr

/-- The token holdings of a line and the home's state for it (R295, R302): L1D lines, L2 slices, tokens gathered at a core, cores
whose region-access-table entry holds one token, and cores whose entry has lent its token (R277). homeLent names the lenders of
tokens at the home, port the cores whose port has the data an engine or an uncached access asked for (R252, R295). nc marks a line
last accessed through a leaf with C = 0, which no cache holds (R295), lclass the L2 lock class of that leaf (R266). stale is the
line as LPDDR6 holds it, while that is older than the owner's copy (log 12). cnv holds the requesters whose CNV came before their
UPG (R300, R303). -/
structure LineSt where
  home : Hold
  l1d : List (CoreId × Hold)
  slices : List (Bool × Hold)
  gath : List (CoreId × Gath)
  rats : List CoreId
  lent : List CoreId
  homeLent : List CoreId
  port : List CoreId
  nc : Bool
  lclass : BitVec 4
  stale : Option (BitVec 512)
  st : HomeSt
  wbPend : Bool
  serving : Option Req
  waiting : List Req
  cnv : List Rq
deriving DecidableEq, Repr

/-- What a request's data is for: a scalar access, an engine's read, a fetch into L2, an operation that the home performs, or a
line without tokens (R252, R204, R259, R260). -/
inductive ReadUse where
  | scalar | engine | fetch | home | untracked
deriving DecidableEq, Repr

/-- A request for tokens that is not yet satisfied, the cycle it left the port and its gather bound (R306, R310). converted tells
of one that has been made persistent, and of an untracked line's that its data has come. -/
structure OutReq where
  req : Req
  since : Nat
  bound : Nat
  use : ReadUse
  converted : Bool
deriving DecidableEq, Repr

/-- What the home performs on one line for the host, another device or a context's strongly-ordered access (R288, R289, R283,
R259). -/
inductive HomeOp where
  | write (mask : BitVec 64) (data : BitVec 512)
  | atomic (off : Nat) (wide : Bool) (op : Option AmoOp) (x y : Word)
  | read
deriving DecidableEq, Repr

/-- Another device's request: the device, the line of tensor addresses it asked for and, of a write or an atomic, its sequence
number (R289, R408). -/
structure RemoteSrc where
  dev : BitVec 4
  tline : Nat
  seq : Nat
deriving DecidableEq, Repr

/-- An operation of the home that waits its turn or the line's tokens (R289, R292, R299). -/
structure HomeWrite where
  rq : Rq
  line : Nat
  op : HomeOp
  src : Option RemoteSrc
deriving DecidableEq, Repr

/-- Pools of active persistent requests (R307). -/
inductive Pool where
  | ordinary | guarded | recreation
deriving DecidableEq, Repr

/-- An active persistent request and the holders its PACT went to (R307). -/
structure ActiveReq where
  req : Req
  act : Nat
  pool : Pool
  sinceNs : Nat
  told : List Holder
deriving DecidableEq, Repr

/-- The persistent arbiter (R307). -/
structure Arbiter where
  waiting : List Req
  active : List ActiveReq
  next : Nat
  ptr : List (Nat × Nat)
deriving DecidableEq, Repr

/-- An untracked copy of a line in the caches of a die (R260, R286). -/
structure UtCopy where
  die : Bool
  core : Option CoreId
  line : Nat
  data : BitVec 512
deriving DecidableEq, Repr

/-- An entry of a home's directory cache: whether each die holds tokens of the line, and the die of the owner token (R302). -/
structure Hint where
  cd0 : Bool
  cd1 : Bool
  owner : Option Bool
deriving DecidableEq, Repr

/-- Token coherence state (R294 to R309): lines whose holdings differ from reset, the directory caches with the least recently
used entry first, messages in flight and those that reached a core with a confirmed commit (R304), unsatisfied requests, the
arbiter, poisoned lines (R402), untracked copies. -/
structure Coh where
  lines : List (Nat × LineSt)
  dir : List (Nat × Hint)
  net : List Instr
  deferred : List (CoreId × Instr)
  outs : List OutReq
  homeOps : List HomeWrite
  arb : Arbiter
  poison : List Nat
  ut : List UtCopy
  epochChecked : List Nat
deriving DecidableEq, Repr

/-! ### Futures, casts, tasks, queues, images -/

/-- States of a future entry (R31). -/
inductive FutSt where
  | empty | pending | ready | failed
deriving DecidableEq, Repr

/-- A waiter of a future (R320): a task waiting on it as a dependence, or a context parked by AWAIT. -/
inductive Waiter where
  | dep (task : Nat)
  | parked (task : Nat)
deriving DecidableEq, Repr

/-- An entry of the future table (R30). -/
structure FutEnt where
  val : Word
  gen : BitVec 10
  st : FutSt
  waiters : List Waiter
deriving DecidableEq, Repr

/-- The future table (R30, R321): entries that were ever allocated, freed ones oldest first, and the
lowest index never allocated. -/
structure FutTab where
  size : Option Nat
  ents : List (Nat × FutEnt)
  freed : List Nat
  next : Nat
deriving DecidableEq, Repr

/-- A cast (R33, R34). -/
structure CastEnt where
  alloc : Bool
  gen : BitVec 10
  members : List Nat
  phase : BitVec 32
  awaited : List Nat
  arrived : List Nat
  pending : Nat
  ovr : Bool
deriving DecidableEq, Repr

/-- The cast table (R33). -/
structure CastTab where
  ents : List (Nat × CastEnt)
  freed : List Nat
  next : Nat
deriving DecidableEq, Repr

/-- An expanded task record (R315, R316). -/
structure TaskRec where
  img : Option (BitVec 32)
  args : Vector Word 8
  deps : Vector (BitVec 32) 4
  res : BitVec 32
  cast : BitVec 32
  cls : BitVec 16
  aff : Word
  charge : Word
  flags : BitVec 16
deriving DecidableEq, Repr

/-- States of a task while it is in the table (R319); a task leaves the table at DONE or FAILED. -/
inductive TaskSt where
  | new | waiting | ready | running | parked
deriving DecidableEq, Repr

/-- A task of a die's task table (R314, R319). qdie and queue name its queue; saved holds the save-area
tensor address and SIZE of a saved task, infl the X operation that such a task was waiting in (R224, R333); asked
holds the victims that a pre-emption was asked of, tried those whose answer was used (R326); placed orders placements;
castOvr keeps STATUS.CAST_OVR for a saved task (R73); notOn holds the cores that the task has escalated on (R374). -/
structure Task where
  id : Nat
  qdie : Bool
  queue : BitVec 6
  timedSeg : Bool
  scan : Option CoreId
  tr : TaskRec
  st : TaskSt
  age : Nat
  ran : Bool
  charged : Bool
  loc : Option (CoreId × CtxId)
  saved : Option (Word × Nat)
  infl : Option Inflight
  why : ParkWhy
  asked : List Nat
  tried : List Nat
  placed : Nat
  castOvr : Bool
  notOn : List CoreId
deriving DecidableEq, Repr

/-- A task that has left the table, with the value TEXIT gave or none when it FAILED. -/
structure Ended where
  id : Nat
  value : Option Word
deriving DecidableEq, Repr

/-- A token bucket (R327). -/
structure Bucket where
  rate : BitVec 32
  depth : BitVec 39
  bal : Int
deriving DecidableEq, Repr

/-- A launch queue (R313, R316). -/
structure Queue where
  active : Bool
  timed : Bool
  prio : BitVec 6
  cap : BitVec 16
  cyc : Bucket
  byt : Bucket
  en : Bucket
  base : TaskRec
deriving DecidableEq, Repr

/-- A declaration of an image's tensor list (R343). -/
structure TensorDecl where
  tid : BitVec 16
  fmt : BitVec 4
  geom : BitVec 2
  plane : BitVec 2
  device : BitVec 4
  rank : BitVec 2
  devSet : Bool
  dims : Vector (BitVec 32) 4
deriving DecidableEq, Repr

/-- A loaded image (R343), with the SHA3-512 digest of its signed bytes (R342, R344). -/
structure Image where
  id : Nat
  dies : BitVec 2
  priv : Bool
  text : List Byte
  dataTid : Option (BitVec 16)
  tlist : List TensorDecl
  pb : Nat
  digest : BitVec 512
deriving DecidableEq, Repr

/-- What the stage manager and Wyane hold for a compute die (R313, R323, R350, R351, R376, R420, R423), and what its cores share: the
ways that the lines of its L2 slices lie in (R265), the die TLB, the layout instances of the slices by slice, and the walks in
flight, each with its core and the cycle of that core it ends in (R262); the least recently used first. -/
structure Die where
  queues : Vector Queue 64
  rr : Vector Nat 64
  lastCore : BitVec 6
  lcmap : Vector Byte 64
  policy : ScanPolicy
  scanDue : List (BitVec 6)
  lastScan : List (BitVec 6 × Nat)
  failAllow : Bool
  failed : Bool
  stopped : Bool
  adopted : Bool
  retireTimes : List Nat
  ways : List ((Nat × Nat) × BitVec 4)
  l2 : List (Nat × Nat)
  dtlb : List TlbEnt
  layouts : List (Nat × Nat)
  walks : List (CoreId × Nat)
  routes : List (CoreId × BitVec 5)
  supplied : Bool
  clockMhz : Nat
  stopPlacing : Bool
  vddMv : Nat
  celsius : Byte
deriving DecidableEq, Repr

/-! ### Host, firmware, links, time -/

/-- A command ring (R337, R339). -/
structure Ring where
  base : Word
  size : BitVec 4
  enable : Bool
  busy : Bool
  tail : Nat
  head : Nat
  cqHead : Word
  cqTail : Nat
  phase : Bool
deriving DecidableEq, Repr

/-- A device-link port (R346, R407). -/
structure Link where
  locked : Bool
  up : Bool
  configured : Bool
  retries : Nat
  resent : Nat
deriving DecidableEq, Repr

/-- A public-key slot of Wyane (R342, R345). -/
inductive KeySlot where
  | usable | absent | revoked
deriving DecidableEq, Repr

/-- R263: the accesses that were translated under entries which a command has changed: regions and X operations, by context and
region number, operations of a home, messages to other devices; and the lines of the old leaves, as first line and number. -/
structure OldUsers where
  regions : List (CoreId × CtxId × Nat)
  ops : List HomeWrite
  msgs : List (BitVec 4 × Nat)
  lines : List (Nat × Nat)
deriving DecidableEq, Repr

/-- What a started command waits for: CORE_CLASS for the contexts of its cores to be FREE (R45), WAY_LOCK for the cores of the
die not to run (R266), a change of tables for the accesses that used the old entries (R263), CORE_RETIRE for the end of a
retirement that is already in progress (R415). -/
inductive CmdJob where
  | coreClass (cores : List CoreId) (timed : Bool)
  | wayLock (die : Bool) (ways : List (Nat × Nat)) (cls : BitVec 4)
  | drain (users : OldUsers)
  | wings (c : CoreId)
deriving DecidableEq, Repr

/-- A command that has been taken and waits (R339). -/
structure StartedCmd where
  cmd : Cmd
  job : CmdJob
deriving DecidableEq, Repr

/-- A posted line write to another device that is not yet acknowledged (R289, R408). -/
structure RemoteWrite where
  dst : BitVec 4
  seq : Nat
  owner : CoreId × CtxId
  window : Nat
  bytes : List (Nat × Byte)
deriving DecidableEq, Repr

/-- What goes back to another device: the line of tensor addresses asked for, its bytes unless the translation was refused, and
the poison indication (R289, R396, R403). -/
structure RemoteReply where
  dst : BitVec 4
  tline : Nat
  data : Option (BitVec 512)
  poison : Bool
deriving DecidableEq, Repr

/-- An entry of the error log (R371). -/
structure LogEntry where
  src : Byte
  sev : BitVec 2
  die : Bool
  pcore : BitVec 6
  ctx : CtxId
  unit : Byte
  seq : BitVec 16
  run : BitVec 4
  time : Word
  addr : Word
  synd : BitVec 16
deriving DecidableEq, Repr

/-- The error log (R371, R372). -/
structure ErrLog where
  entries : List LogEntry
  nextSeq : BitVec 16
  ovf : Bool
  cedrop : Bool
  ctl : Word
  ce : Word
  ue : Word
  esc : Word
  retired : Word
  coreSel : Word
  ceLast : List ((Byte × Byte × Bool × BitVec 6) × Nat)
deriving DecidableEq, Repr

/-- Timebase roles and lock (R347, R410); slewTo is the lead of TIME, in its units, over the time it is slewed to, goodSince the
TIME since which the device holds the limit of 100 ns. -/
structure TimeBase where
  units : Nat
  master : Bool
  locked : Bool
  lastSyncNs : Nat
  goodSince : Option Nat
  slewTo : Option Int
  windowUs : Nat
  backup : Option (BitVec 4)
deriving DecidableEq, Repr

/-- Device-wide registers and units outside the cores: among them the ring that Wyane looks at next (R339), the digests of the
applied patches (R344), the key slots, 0 to 3 fused and 4 to 7 added by patches (R342, R343), and the line writes and atomics to
other devices in the order in which they left, those sent again among them (R289, R408). -/
structure Dev where
  funcReady : Word
  boardGib : Byte
  memGib : Byte
  hostLanes : Nat
  hostGts : Nat
  rings : Vector Ring 4
  nextRing : BitVec 2
  started : List StartedCmd
  msix : List Nat
  toLate : BitVec 32
  toDrop : BitVec 32
  toLevel : BitVec 16
  toEnable : BitVec 16
  toEnts : List TOutEntry
  temp : Word
  bp : Vector Word 4
  finj : Word
  devNo : BitVec 4
  links : Vector Link 4
  routes : List (BitVec 4 × BitVec 2 × BitVec 3)
  seqOut : Vector Nat 16
  seqIn : Vector Nat 16
  unacked : List RemoteWrite
  sent : List (BitVec 4 × Nat)
  reads : List RemoteReply
  acks : List (BitVec 4 × Nat)
  hostReads : List (Nat × BitVec 512 × Bool)
  hostErrors : List LinkProto
  tb : TimeBase
  fused : BitVec 16
  patches : List (BitVec 512)
  keys : Vector KeySlot 8
  addedKeys : List (BitVec 3 × BitVec 20736)
  tablesTop : Nat
  sharedStop : Bool
  launched : Bool
deriving DecidableEq, Repr

/-! ### The machine -/

/-- How the slots of the bundle being issued stand (log 8). -/
inductive SlotStop where
  | going | trapped | blocked | left
deriving DecidableEq, Repr

/-- The bundle being issued (log 8): core, context, position, address of the bundle and of the next one,
taken branch, overlay of R386, extra cycles spent, those of them that slots to the left have stalled (R123, R169), and the first place in
program order that its slots can take. Between steps it is Cur.idle but for core and ctx. -/
structure Cur where
  core : CoreId
  ctx : CtxId
  pos : BitVec 3
  addr : BitVec 16
  next : BitVec 16
  br : Option (BitVec 16)
  overlay : List (Byte × Word)
  stop : SlotStop
  cost : Nat
  late : Nat
  isolated : Bool
  seq0 : Nat
deriving DecidableEq, Repr

/-- Who moves (log 1). -/
inductive Act where
  | event (i : Instr)
  | core (c : CoreId)
deriving DecidableEq, Repr

/-- A turn: time that passes before it, in units of 1/17 ns, and who moves (log 1). -/
structure Turn where
  units : Nat
  act : Act
deriving DecidableEq, Repr

/-- The whole machine. -/
structure State where
  variant : Variant
  cores : Vector Core 128
  dies : Vector Die 2
  mem : List Host.Cell
  coh : Coh
  fut : FutTab
  casts : CastTab
  tasks : List Task
  nextTask : Nat
  ages : Nat
  ended : List Ended
  images : List Image
  log : ErrLog
  dev : Dev
  cur : Cur
  focus : CoreId
  agenda : List Turn
  free : Nat
deriving DecidableEq, Repr

/-! ### Reset -/

def MStats.reset : MStats := ⟨0, 0, 0, 0, 0⟩

/-- Checkpointed registers of a context at task entry and, before any task, at reset (R28; log 4). -/
def Regs.reset : Regs :=
  { pc := 0, s := Vector.replicate 64 0, sEmpty := 0, sh := Vector.replicate 8 0, shEmpty := 0
    p := 1, k := (Vector.replicate 8 0).set 0 (BitVec.allOnes 2048)
    ix := Vector.replicate 4 0x0001000000200000
    loops := [], fflags := 0, ferec := 0, evAt := (0, 0), mode := false, dbgen := false, uien := false, inui := false
    active := false, stats := MStats.reset }

/-- Task-entry values of the matrix state (R207). -/
def MatrixRegs.reset : MatrixRegs :=
  { mlim := 32, sat6 := 0x1FFF, und6 := 0x1FFF, can6 := 0x1FFF, sat8 := 0x1FFF, und8 := 0x1FFF
    can8 := 0x1FFF, cexp := 0, cont := false }

/-- Reset values of the trap registers (R382). -/
def TrapRegs.reset : TrapRegs :=
  { tvec := 0, tcause := 0, tepc := 0, tstatus := 0, tval := 0, tovid := 0
    tov := Vector.replicate 8 0, tscr := Vector.replicate 2 0 }

def CommitState.idle : CommitState := ⟨.idle, 0⟩

/-- A FREE context that has held no task. -/
def Ctx.reset : Ctx :=
  { occ := .free, task := none, r := Regs.reset, ckpt := Regs.reset
    td := Vector.replicate 16 0, vshape := 0x00702010, vwin := 0, slabEmpty := [], spill := []
    statusHi := 0, uivec := 0, uiepc := 0, uicause := 0, tr := TrapRegs.reset, mx := MatrixRegs.reset
    opened := false, region := 0, seq := 0, gate := [], scalarLines := [], recs := [], touts := []
    tpfDone := 0, tldmSubs := [], soStores := [], pend := [], cm := CommitState.idle, after := .none
    infl := none, reslot := none, ckReslot := none, rsDue := false, run := 0, race := 0, guarded := false, guardLines := [], solo := false
    preemptReq := false, halted := false, waitCast := none, waitWindow := none
    predAge := Vector.replicate 16 1, skips := 0, stale := [], hostUnacked := 0
    homeAns := none, commitWin := 0, readHit := none, trapOf := none }

/-- The reset value of DF_PARTc: BASE 4c, SIZE 4 (R75). -/
def dfPartReset : Vector Word 4 := #v[0x400, 0x404, 0x408, 0x40C]

/-- A core at reset (R61, R64, R71, R417; logs 5, 6). -/
def Core.reset (withheld : Bool) : Core :=
  { ready := false, wings := withheld, timed := false, rclass := .opn
    ctxs := Vector.replicate 4 Ctx.reset, df := [], side := [], scratch := [], cycle := 0, brkskip := 0
    dfPart := dfPartReset, saveBase := Vector.replicate 4 0
    scanCtl := 0x10000, scanSigx := 0, scanSigm := 0, scanStat := 3, scanStart := 0, scanRun := none
    scanTask := none, scanPos := 0, gapUsed := false, lastCtx := 0, matQ := [], tileQ := [], sfuQ := [], vfree := Vector.replicate 2 0
    mFree := 0, tFree := 0, resid := Vector.replicate 2 none, order := none, badWords := [], reports := [], errTimes := []
    ceCount := 0, suspect := false, retiring := none, debits := [], lastDebit := 0, teCache := []
    teFetch := [], tlb := [], l1d := [], seen := 0, skew := 0 }

/-- A physical core that stands in the wings from reset, or is not fitted: the last 16 of each die on the
HX930 (log 3), every core of CD1 on the HX920 (R17, R414). -/
def withheld (v : Variant) (c : CoreId) : Bool :=
  match v with
  | .hx940 => false
  | .hx930 => decide (48 ≤ (c.toNat % 64))
  | .hx920 => decide (64 ≤ c.toNat)

def TaskRec.reset : TaskRec :=
  { img := none, args := Vector.replicate 8 0, deps := Vector.replicate 4 0, res := 0, cast := 0, cls := 0
    aff := 0, charge := 0, flags := 0 }

def Bucket.reset : Bucket := ⟨0, 0, 0⟩

/-- A launch queue that has not been created (R313). -/
def Queue.reset : Queue :=
  { active := false, timed := false, prio := 0, cap := 0, cyc := Bucket.reset, byt := Bucket.reset
    en := Bucket.reset, base := TaskRec.reset }

/-- The scan policy of a die at reset (R420). -/
def ScanPolicy.reset : ScanPolicy := ⟨3600, 0, 3, 16⟩

/-- The logical core map of a die at reset: enabled cores in increasing physical order, every other entry
ABSENT with PCORE 0 (R414). -/
def lcmapReset (v : Variant) (die : Bool) : Vector Byte 64 :=
  Vector.ofFn fun i =>
    match v with
    | .hx940 => BitVec.ofNat 8 i.val
    | .hx930 => if i.val < 48 then BitVec.ofNat 8 i.val else 0x80
    | .hx920 => if die then 0x80 else BitVec.ofNat 8 i.val

def Die.reset (v : Variant) (die : Bool) : Die :=
  { queues := Vector.replicate 64 Queue.reset, rr := Vector.replicate 64 127, lastCore := 63
    lcmap := lcmapReset v die, policy := ScanPolicy.reset, scanDue := [], lastScan := []
    failAllow := true, failed := false, stopped := false, adopted := false, retireTimes := [], ways := [], l2 := [], dtlb := []
    layouts := [], walks := [], routes := []
    supplied := true, clockMhz := 1700, stopPlacing := false, vddMv := 550, celsius := 0 }

def Ring.reset : Ring := ⟨0, 0, false, false, 0, 0, 0, 0, true⟩

def Link.reset : Link := ⟨false, false, false, 0, 0⟩

/-- The error log at reset (R371). -/
def ErrLog.reset : ErrLog :=
  { entries := [], nextSeq := 0, ovf := false, cedrop := false, ctl := 0x101, ce := 0, ue := 0, esc := 0
    retired := 0, coreSel := 0, ceLast := [] }

def TimeBase.reset : TimeBase :=
  { units := 0, master := false, locked := false, lastSyncNs := 0, goodSince := none, slewTo := none, windowUs := 8
    backup := none }

/-- R254: the tensor table, 65,536 entries of 64 bytes, which Wyane places at reset (log 17). -/
def tensorTable : Nat := 0x2CFFC00000

/-- Tables that Wyane builds are placed from this physical address downward (log 17). -/
def tablesTopReset : Nat := tensorTable

/-- Every unit of the stage die at reset. boardGib, the capacity that channel training finds (R18, R20: Reset "board"), is 192
GiB, the largest of R14 (DESIGN CHOICE, log 18). -/
def Dev.reset : Dev :=
  { funcReady := 0, boardGib := 192, memGib := 0, hostLanes := 0, hostGts := 0, rings := Vector.replicate 4 Ring.reset
    nextRing := 0, started := [], msix := [], toLate := 0, toDrop := 0, toLevel := 0, toEnable := 0, toEnts := [], temp := 0
    bp := Vector.replicate 4 0, finj := 0, devNo := 0, links := Vector.replicate 4 Link.reset, routes := []
    seqOut := Vector.replicate 16 0, seqIn := Vector.replicate 16 0, unacked := [], sent := [], reads := [], acks := []
    hostReads := [], hostErrors := [], tb := TimeBase.reset, fused := 0, patches := []
    keys := Vector.ofFn fun i => if i.val < 4 then .usable else .absent, addedKeys := []
    tablesTop := tablesTopReset, sharedStop := false, launched := false }

def Arbiter.reset : Arbiter := ⟨[], [], 0, []⟩

def Coh.reset : Coh :=
  { lines := [], dir := [], net := [], deferred := [], outs := [], homeOps := [], arb := Arbiter.reset, poison := [], ut := [], epochChecked := [] }

def FutTab.reset : FutTab := ⟨none, [], [], 1⟩

def CastTab.reset : CastTab := ⟨[], [], 1⟩

/-- No bundle is being issued (log 8). -/
def Cur.idle (core : CoreId) (ctx : CtxId) : Cur :=
  { core := core, ctx := ctx, pos := 0, addr := 0, next := 0, br := none, overlay := [], stop := .going
    cost := 0, late := 0, isolated := false, seq0 := 0 }

/-- The part of the given variant right after reset. -/
def State.resetOf (v : Variant) : State :=
  { variant := v
    cores := Vector.ofFn fun i => Core.reset (withheld v (BitVec.ofNat 7 i.val))
    dies := #v[Die.reset v false, Die.reset v true]
    mem := [], coh := Coh.reset, fut := FutTab.reset, casts := CastTab.reset
    tasks := [], nextTask := 0, ages := 0, ended := [], images := [], log := ErrLog.reset
    dev := Dev.reset, cur := Cur.idle 0 0, focus := 0, agenda := [], free := 0 }

/-- The machine right after reset: an HX940 (log 2). -/
def State.reset : State := State.resetOf .hx940

end Sys2Proof.Machine
end

