-- ==== Sys2Proof/Machine/Bytes.lean ====
section
/-! DEFINITION. Machine/Bytes.lean: byte maps in one canonical form (addresses strictly rising, no zero
byte; an unlisted address reads 0, log 7), little-endian access (R4), and bit-field helpers. Memory, the deep
file, sidecars, the spill store and the scratchpad are such maps. -/

namespace Sys2Proof.Machine

/-- The byte at address a. -/
def cellGet (m : List Host.Cell) (a : Nat) : Byte :=
  match m with
  | [] => 0
  | (k, v) :: rest => if k = a then v else cellGet rest a

/-- The map with byte v at address a. -/
def cellSet (m : List Host.Cell) (a : Nat) (v : Byte) : List Host.Cell :=
  match m with
  | [] => if v = 0 then [] else [(a, v)]
  | (k, x) :: rest =>
    if k < a then (k, x) :: cellSet rest a v
    else if k = a then (if v = 0 then rest else (a, v) :: rest)
    else if v = 0 then (k, x) :: rest else (a, v) :: (k, x) :: rest

/-- Every address of the map is above lo. -/
def cellsAbove (lo : Nat) (m : List Host.Cell) : Bool :=
  match m with
  | [] => true
  | (k, v) :: rest => decide (lo < k) && v != 0 && cellsAbove k rest

/-- The canonical form: addresses strictly rising, no entry equal to what an unlisted address reads as. -/
def Memory.wf (m : List Host.Cell) : Bool :=
  match m with
  | [] => true
  | (k, v) :: rest => v != 0 && cellsAbove k rest

/-- The map from its first address at or above a on. -/
def cellDrop (m : List Host.Cell) (a : Nat) : List Host.Cell :=
  match m with
  | [] => []
  | (k, v) :: rest => if k < a then cellDrop rest a else (k, v) :: rest

/-- n bytes from address a of a map that lists nothing below a. -/
def cellFill (n : Nat) (a : Nat) (m : List Host.Cell) : List Byte :=
  match n with
  | 0 => []
  | n + 1 =>
    match m with
    | [] => 0 :: cellFill n (a + 1) []
    | (k, v) :: rest => if k = a then v :: cellFill n (a + 1) rest else 0 :: cellFill n (a + 1) ((k, v) :: rest)

/-- The n bytes from address a, in increasing address order. -/
def cellBytes (m : List Host.Cell) (a : Nat) (n : Nat) : List Byte := cellFill n a (cellDrop m a)

/-- The map with the bytes bs from address a on. -/
def cellWrite (m : List Host.Cell) (a : Nat) (bs : List Byte) : List Host.Cell :=
  match bs with
  | [] => m
  | b :: rest => cellWrite (cellSet m a b) (a + 1) rest

/-- Writes every listed cell. -/
def cellPuts (m : List Host.Cell) (cs : List Host.Cell) : List Host.Cell :=
  cs.foldl (fun m c => cellSet m c.1 c.2) m

/-- The map without the addresses for which p holds. -/
def cellClear (m : List Host.Cell) (p : Nat → Bool) : List Host.Cell := m.filter fun c => !p c.1

/-- R4: the little-endian value of bytes, the first one lowest. -/
def leVal (bs : List Byte) : Nat :=
  match bs with
  | [] => 0
  | b :: rest => b.toNat + 256 * leVal rest

/-- R4: n little-endian bytes of v. -/
def leBytes (n : Nat) (v : Nat) : List Byte :=
  match n with
  | 0 => []
  | n + 1 => BitVec.ofNat 8 v :: leBytes n (v / 256)

/-- The n-byte little-endian value at a. -/
def cellNat (m : List Host.Cell) (a n : Nat) : Nat := leVal (cellBytes m a n)

/-- Bits [hi:lo] of a word as a number. -/
def bits (w : Nat) (hi lo : Nat) : Nat := w / 2 ^ lo % 2 ^ (hi + 1 - lo)

/-- Bit i of a number. -/
def bitAt (w : Nat) (i : Nat) : Bool := w / 2 ^ i % 2 = 1

/-- w with bits [hi:lo] replaced by the low bits of v. -/
def putBits (w : Word) (hi lo : Nat) (v : Nat) : Word :=
  let mask : Word := BitVec.ofNat 64 ((2 ^ (hi + 1 - lo) - 1) * 2 ^ lo)
  (w &&& ~~~mask) ||| BitVec.ofNat 64 (v % 2 ^ (hi + 1 - lo) * 2 ^ lo)

/-- The byte lanes of new chosen by the mask be, the others of old (R446, R5). -/
def lanes (old new : Word) (be : Byte) : Word :=
  (List.range 8).foldl
    (fun w i => if be.getLsbD i then putBits w (8 * i + 7) (8 * i) (new.toNat / 2 ^ (8 * i)) else w) old

/-- ceil(a / b). -/
def ceilDiv (a b : Nat) : Nat := (a + b - 1) / b

/-- 1 for true, 0 for false. -/
def boolNat (b : Bool) : Nat := if b then 1 else 0

/-- i(x) of an n-bit number x (R124). -/
def signedOf (n x : Nat) : Int := if 2 * (x % 2 ^ n) < 2 ^ n then (x % 2 ^ n : Nat) else (x % 2 ^ n : Nat) - (2 ^ n : Nat)

/-- x modulo 2^n. -/
def wrapTo (n : Nat) (x : Int) : Nat := (x % (2 ^ n : Nat)).toNat

/-- An association list: the entry of key k. -/
def assoc {α β : Type} [DecidableEq α] (m : List (α × β)) (k : α) : Option β :=
  match m with
  | [] => none
  | (x, v) :: rest => if x = k then some v else assoc rest k

/-- The association list without key k. -/
def assocDel {α β : Type} [DecidableEq α] (m : List (α × β)) (k : α) : List (α × β) :=
  m.filter fun p => p.1 ≠ k

/-- The association list with key k mapped to v. -/
def assocPut {α β : Type} [DecidableEq α] (m : List (α × β)) (k : α) (v : β) : List (α × β) :=
  match m with
  | [] => [(k, v)]
  | (x, w) :: rest => if x = k then (k, v) :: rest else (x, w) :: assocPut rest k v

end Sys2Proof.Machine
end

