-- ==== Sys2Proof/Machine/Access.lean ====
section
/-! DEFINITION. Machine/Access.lean: the one home of each piece of State: cores, contexts, dies, tasks,
the bundle being issued, and the numbers that name them. -/

namespace Sys2Proof.Machine

/-- The outcome of a step of this machine. -/
abbrev Out := Host.Outcome State Fault Refusal

/-! ### Cores and contexts -/

def State.coreAt (s : State) (c : CoreId) : Core := s.cores[c.toNat]'c.isLt

def State.setCore (s : State) (c : CoreId) (k : Core) : State :=
  { s with cores := s.cores.set c.toNat k c.isLt }

def State.modCore (s : State) (c : CoreId) (f : Core → Core) : State := s.setCore c (f (s.coreAt c))

def Core.ctxAt (k : Core) (x : CtxId) : Ctx := k.ctxs[x.toNat]'x.isLt

def Core.setCtx (k : Core) (x : CtxId) (v : Ctx) : Core := { k with ctxs := k.ctxs.set x.toNat v x.isLt }

def State.ctxAt (s : State) (c : CoreId) (x : CtxId) : Ctx := (s.coreAt c).ctxAt x

def State.setCtx (s : State) (c : CoreId) (x : CtxId) (v : Ctx) : State :=
  s.setCore c ((s.coreAt c).setCtx x v)

def State.modCtx (s : State) (c : CoreId) (x : CtxId) (f : Ctx → Ctx) : State :=
  s.setCtx c x (f (s.ctxAt c x))

/-- The core and the context of the bundle being issued (log 8). -/
def State.myCore (s : State) : Core := s.coreAt s.cur.core
def State.me (s : State) : Ctx := s.ctxAt s.cur.core s.cur.ctx
def State.modMyCore (s : State) (f : Core → Core) : State := s.modCore s.cur.core f
def State.setMe (s : State) (v : Ctx) : State := s.setCtx s.cur.core s.cur.ctx v
def State.modMe (s : State) (f : Ctx → Ctx) : State := s.setMe (f s.me)

/-- The checkpointed registers of the issuing context. -/
def State.modRegs (s : State) (f : Regs → Regs) : State := s.modMe fun c => { c with r := f c.r }

def State.modCur (s : State) (f : Cur → Cur) : State := { s with cur := f s.cur }

/-- Every core and every context. -/
def allCores : List CoreId := (List.range 128).map (BitVec.ofNat 7)
def allCtxs : List CtxId := [0, 1, 2, 3]

/-- Every context of every core. -/
def allContexts : List (CoreId × CtxId) := allCores.flatMap fun c => allCtxs.map fun x => (c, x)

/-! ### Numbers -/

/-- The compute die of a core, and its physical number there. -/
def dieOf (c : CoreId) : Bool := c.getLsbD 6
def pcoreOf (c : CoreId) : BitVec 6 := c.extractLsb' 0 6
def coreId (die : Bool) (p : BitVec 6) : CoreId := BitVec.ofBool die ++ p

/-- R299: the requester number of a context. -/
def rqOf (c : CoreId) (x : CtxId) : Rq := BitVec.ofNat 10 (c.toNat * 4 + x.toNat)
/-- The core and context of a requester number below 512. -/
def rqCore (rq : Rq) : CoreId := BitVec.ofNat 7 (rq.toNat / 4)
def rqCtx (rq : Rq) : CtxId := BitVec.ofNat 2 (rq.toNat % 4)
def rqIsCore (rq : Rq) : Bool := decide (rq.toNat < 512)

/-! ### Dies -/

def dieIx (d : Bool) : Fin 2 := if d then 1 else 0

def State.dieAt (s : State) (d : Bool) : Die := s.dies[(dieIx d).val]
def State.setDie (s : State) (d : Bool) (v : Die) : State := { s with dies := s.dies.set (dieIx d).val v }
def State.modDie (s : State) (d : Bool) (f : Die → Die) : State := s.setDie d (f (s.dieAt d))

/-- R17: CD1 is not fitted on the HX920. -/
def State.dieFitted (s : State) (d : Bool) : Bool := !(d && s.variant == .hx920)

/-- R413: the logical number of a core on its die, if the map names it. -/
def State.logicalOf (s : State) (c : CoreId) : Option Nat :=
  let m := (s.dieAt (dieOf c)).lcmap
  (List.range 64).find? fun i => m[i]! == BitVec.ofNat 8 (pcoreOf c).toNat

/-- R413: the physical core that a logical number names, if present. -/
def State.physicalOf (s : State) (d : Bool) (l : BitVec 6) : Option CoreId :=
  let e := (s.dieAt d).lcmap[l.toNat]'l.isLt
  if e.getLsbD 7 then none else some (coreId d (e.extractLsb' 0 6))

/-! ### Queues and tasks -/

def State.queueAt (s : State) (d : Bool) (q : BitVec 6) : Queue := (s.dieAt d).queues[q.toNat]'q.isLt
def State.modQueue (s : State) (d : Bool) (q : BitVec 6) (f : Queue → Queue) : State :=
  s.modDie d fun v => { v with queues := v.queues.set q.toNat (f (v.queues[q.toNat]'q.isLt)) q.isLt }

def State.taskAt (s : State) (id : Nat) : Option Task := s.tasks.find? fun t => t.id = id
def State.modTask (s : State) (id : Nat) (f : Task → Task) : State :=
  { s with tasks := s.tasks.map fun t => if t.id = id then f t else t }

/-- The next age (R323), and the state after it is taken. -/
def State.takeAge (s : State) : Nat × State := (s.ages, { s with ages := s.ages + 1 })

/-! ### Device time and free values -/

/-- TIME in nanoseconds (R347). -/
def State.timeNs (s : State) : Nat := s.dev.tb.units / Config.unitsPerNs

def State.modDev (s : State) (f : Dev → Dev) : State := { s with dev := f s.dev }
def State.modCoh (s : State) (f : Coh → Coh) : State := { s with coh := f s.coh }

/-- A fresh free word (log 9). -/
def State.freshWord (s : State) : Word × State := (Config.freeWord s.free, { s with free := s.free + 1 })

/-- A fresh free line (log 9). -/
def State.freshLine (s : State) : BitVec 512 × State := (Config.freeLine s.free, { s with free := s.free + 1 })

/-- A fresh free choice (log 9). -/
def State.freshBool (s : State) : Bool × State := (Config.freeBool s.free, { s with free := s.free + 1 })

/-! ### The deep file (R53, R61, R75) -/

/-- R75: first slab and number of slabs of context x's partition. -/
def Core.partBase (k : Core) (x : CtxId) : Nat := bits (k.dfPart[x.toNat]'x.isLt).toNat 3 0 * 32
def Core.partUnits (k : Core) (x : CtxId) : Nat := bits (k.dfPart[x.toNat]'x.isLt).toNat 11 8
def Core.partSlabs (k : Core) (x : CtxId) : Nat := k.partUnits x * 32

/-- Byte off of partition-relative slab q of context x, as an address of the deep file (R61). -/
def Core.slabAddr (k : Core) (x : CtxId) (q : Nat) : Nat := (k.partBase x + q) * 2048

def Core.sideAddr (k : Core) (x : CtxId) (q : Nat) : Nat := (k.partBase x + q) * 128

/-- A slab as a number: byte i is digit i, base 256 (R60). -/
def Core.slabBytes (k : Core) (x : CtxId) (q : Nat) : List Byte := cellBytes k.df (k.slabAddr x q) 2048

def Core.sideBytes (k : Core) (x : CtxId) (q : Nat) : List Byte := cellBytes k.side (k.sideAddr x q) 128

end Sys2Proof.Machine
end

