-- ==== Sys2Proof/Machine/Log.lean ====
section
/-! DEFINITION. Machine/Log.lean: the error log and the MSI-X vectors (R371, R372, R377). -/

namespace Sys2Proof.Machine

/-- R339, R377: raises MSI-X vector v. State.dev.msix keeps every raise since reset, in order. -/
def State.raiseMsix (s : State) (v : Nat) : State := s.modDev fun d => { d with msix := d.msix ++ [v] }

/-- x + 1, saturating at 2^64 - 1. -/
def satInc (x : Word) : Word := if x = BitVec.allOnes 64 then x else x + 1

/-- x + 1, saturating at 65,535. -/
def satInc16 (x : BitVec 16) : BitVec 16 := if x = BitVec.allOnes 16 then x else x + 1

/-- The list without the first entry that p accepts. -/
def eraseFirst {α : Type} (p : α → Bool) : List α → List α
  | [] => []
  | a :: rest => if p a then rest else a :: eraseFirst p rest

/-- R372: appends an entry, or drops it, or lets it replace the oldest entry of SEV 0 or 1. -/
def ErrLog.append (l : ErrLog) (e : LogEntry) : ErrLog :=
  let e := { e with seq := l.nextSeq }
  if l.entries.length < 48 then { l with entries := l.entries ++ [e], nextSeq := l.nextSeq + 1 }
  else if e.sev.toNat < 2 then { l with ovf := true }
  else if l.entries.any fun x => decide (x.sev.toNat < 2) then
    { l with entries := eraseFirst (fun x => decide (x.sev.toNat < 2)) l.entries ++ [e]
             nextSeq := l.nextSeq + 1, ovf := true }
  else { l with ovf := true }

/-- R371: ELOG_CTL.THRESH and ELOG_CTL.CELOG. -/
def ErrLog.thresh (l : ErrLog) : Nat := bits l.ctl.toNat 5 0
def ErrLog.celog (l : ErrLog) : Bool := l.ctl.getLsbD 8

/-- R371, R372, R377: a report of severity 1 to 3. Vector 5 for SEV 2 or 3, logged or not; vector 4 when
COUNT reaches THRESH. -/
def State.logEvent (s : State) (e : LogEntry) : State :=
  let e := { e with time := BitVec.ofNat 64 s.timeNs }
  let n := s.log.entries.length
  let s := { s with log := s.log.append e }
  let s := if n < s.log.entries.length && s.log.entries.length = s.log.thresh then s.raiseMsix 4 else s
  if 2 ≤ e.sev.toNat then s.raiseMsix 5 else s

/-- An entry that concerns a context of a core. -/
def coreEntry (src : Byte) (sev : BitVec 2) (c : CoreId) (x : CtxId) (run : Nat) (addr : Word) : LogEntry :=
  { src := src, sev := sev, die := dieOf c, pcore := pcoreOf c, ctx := x, unit := 0, seq := 0
    run := BitVec.ofNat 4 run, time := 0, addr := addr, synd := 0 }

/-- An entry of the stage die. -/
def stageEntry (src : Byte) (sev : BitVec 2) (addr : Word) : LogEntry :=
  { src := src, sev := sev, die := false, pcore := 0, ctx := 0, unit := 0, seq := 0, run := 0, time := 0
    addr := addr, synd := 0 }

/-- An entry that concerns a compute die. -/
def dieEntry (src : Byte) (sev : BitVec 2) (d : Bool) : LogEntry := { stageEntry src sev 0 with die := d }

/-- R372: a corrected error: it counts in CE_COUNT, and is logged while CELOG = 1, at most once per unit and
source in a millisecond of TIME; one that is not logged sets CEDROP. A unit is a slice, channel or port of its die, or a core. -/
def State.logCorrected (s : State) (e : LogEntry) : State :=
  let ms := s.timeNs / 1000000
  let key := (e.src, e.unit, e.die, e.pcore)
  let s := { s with log := { s.log with ce := satInc s.log.ce } }
  if !s.log.celog || assoc s.log.ceLast key == some ms then { s with log := { s.log with cedrop := true } }
  else if 48 ≤ s.log.entries.length then { (s.logEvent { e with sev := 0 }) with log := { (s.logEvent { e with sev := 0 }).log with cedrop := true } }
  else { s with log := { s.log with ceLast := assocPut s.log.ceLast key ms } }.logEvent { e with sev := 0 }

end Sys2Proof.Machine
end

