-- ==== Sys2Proof/Machine/Sched.lean ====
section
/-! DEFINITION. Machine/Sched.lean: futures, casts, tasks, contexts that are freed or parked, and the token
buckets: the operations that several families share (R27 to R36, R319 to R328). -/

namespace Sys2Proof.Machine

/-! ### Futures (R30, R31, R320, R321) -/

def futIndex (h : BitVec 32) : Nat := bits h.toNat 21 0
def futGen (h : BitVec 32) : BitVec 10 := h.extractLsb' 22 10
def futHandle (gen : BitVec 10) (idx : Nat) : BitVec 32 := gen ++ BitVec.ofNat 22 idx

/-- What a handle names (R30, R31). -/
inductive FutLook where
  | range
  | stale
  | ok (e : FutEnt)
deriving DecidableEq, Repr

/-- R30, R31: INDEX at or above the table size, a stale handle or an EMPTY entry, or a live entry. -/
def State.futLook (s : State) (h : BitVec 32) : FutLook :=
  if s.fut.size.getD 0 ≤ futIndex h then .range
  else
    match assoc s.fut.ents (futIndex h) with
    | none => .stale
    | some e => if e.st = .empty ∨ e.gen ≠ futGen h then .stale else .ok e

def State.setFut (s : State) (i : Nat) (e : FutEnt) : State :=
  { s with fut := { s.fut with ents := assocPut s.fut.ents i e } }

/-- R321, R233: the EMPTY entry freed longest ago, else the lowest index never allocated, becomes PENDING;
no entry gives handle 0. -/
def State.futAlloc (s : State) : BitVec 32 × State :=
  match s.fut.freed with
  | i :: rest =>
    let g := ((assoc s.fut.ents i).map (·.gen)).getD 0
    (futHandle g i, { s with fut := { s.fut with freed := rest } }.setFut i ⟨0, g, .pending, []⟩)
  | [] =>
    if s.fut.next < s.fut.size.getD 0 then
      (futHandle 0 s.fut.next,
        { s with fut := { s.fut with next := s.fut.next + 1 } }.setFut s.fut.next ⟨0, 0, .pending, []⟩)
    else (0, s)

/-- A task whose dependences all name READY futures. -/
def State.depsReady (s : State) (t : Task) : Bool :=
  t.tr.deps.toList.all fun h =>
    futIndex h == 0 ||
      (match s.futLook h with
       | .ok e => e.st == .ready
       | _ => false)

/-! ### Casts (R33 to R35) -/

def castIndex (h : BitVec 32) : Nat := bits h.toNat 11 0
def castGen (h : BitVec 32) : BitVec 10 := h.extractLsb' 22 10
def castHandle (gen : BitVec 10) (idx : Nat) : BitVec 32 := gen ++ BitVec.ofNat 22 idx
/-- R33: a nonzero bit in [21:12], or INDEX 0. -/
def castBad (h : BitVec 32) : Bool := bits h.toNat 21 12 != 0 || castIndex h == 0

/-- The live cast a handle names; none for a stale handle. -/
def State.castLook (s : State) (h : BitVec 32) : Option CastEnt :=
  match assoc s.casts.ents (castIndex h) with
  | none => none
  | some e => if e.alloc ∧ e.gen = castGen h then some e else none

def State.setCast (s : State) (i : Nat) (e : CastEnt) : State :=
  { s with casts := { s.casts with ents := assocPut s.casts.ents i e } }

/-- R34: the completion test, made at the events it lists. -/
def CastEnt.settle (e : CastEnt) : CastEnt :=
  if e.pending = 0 && e.awaited.all (fun t => e.arrived.contains t) then
    { e with phase := e.phase + 1, arrived := [], awaited := e.members }
  else e

/-- R35, CLEAVE: a member leaves. -/
def CastEnt.leave (e : CastEnt) (t : Nat) : CastEnt :=
  let e' := { e with members := e.members.erase t, awaited := e.awaited.erase t, arrived := e.arrived.erase t }
  if e.awaited.contains t then e'.settle else e'

/-- R34, R35: a member joins, counted from the next phase. -/
def CastEnt.join (e : CastEnt) (t : Nat) : CastEnt :=
  if e.members.contains t then e else { e with members := e.members ++ [t] }

/-- R34: a decrease of the pending-byte counter; below zero it stays at zero and sets the overrun bit. -/
def CastEnt.subtract (e : CastEnt) (n : Nat) : CastEnt :=
  let e' := if e.pending < n then { e with pending := 0, ovr := true } else { e with pending := e.pending - n }
  if e'.pending < e.pending then e'.settle else e'

/-- R33: the cast entry freed longest ago, else the lowest never allocated, with its creator as sole member;
no entry gives handle 0. -/
def State.castAlloc (s : State) (creator : Nat) : BitVec 32 × State :=
  let fresh (g : BitVec 10) : CastEnt := ⟨true, g, [creator], 0, [creator], [], 0, false⟩
  match s.casts.freed with
  | i :: rest =>
    let g := ((assoc s.casts.ents i).map (·.gen)).getD 0
    (castHandle g i, { s with casts := { s.casts with freed := rest } }.setCast i (fresh g))
  | [] =>
    if s.casts.next < 4096 then
      (castHandle 0 s.casts.next,
        { s with casts := { s.casts with next := s.casts.next + 1 } }.setCast s.casts.next (fresh 0))
    else (0, s)

/-- R319: a task that ends leaves every cast of which it is a member. -/
def State.leaveCasts (s : State) (t : Nat) : State :=
  let upd (e : CastEnt) : CastEnt := if e.members.contains t then e.leave t else e
  { s with casts := { s.casts with ents := s.casts.ents.map fun p => (p.1, upd p.2) } }

/-- R34, R73: an overrun, which sets the overrun status bit of the cast, sets STATUS.CAST_OVR of every member, for one
that is saved when it is restored. -/
def State.spreadOverrun (s : State) (overran : Bool) (e : CastEnt) : State :=
  if overran then
    e.members.foldl (fun s t =>
      match s.taskAt t with
      | some k =>
        match k.loc with
        | some (c, x) => s.modCtx c x fun v => { v with statusHi := v.statusHi ||| 0x200 }
        | none => s.modTask t fun k => { k with castOvr := true }
      | none => s) s
  else s

/-! ### Token buckets (R327 to R329) -/

def Bucket.unmetered (b : Bucket) : Bool := b.rate == 0 && b.depth == 0
def Bucket.isEmpty (b : Bucket) : Bool := !b.unmetered && decide (b.bal ≤ 0)
/-- R327: 40 bits, saturating at -2^39. -/
def Bucket.debit (b : Bucket) (n : Nat) : Bucket := { b with bal := max (-(2 ^ 39 : Int)) (b.bal - n) }
def Bucket.refill (b : Bucket) : Bucket := { b with bal := min b.depth.toNat (b.bal + b.rate.toNat) }

/-- A throughput queue with an empty bucket (R46, R313). -/
def Queue.broke (q : Queue) : Bool := !q.timed && (q.cyc.isEmpty || q.byt.isEmpty || q.en.isEmpty)

def Queue.debit (q : Queue) (cyc byt en : Nat) : Queue :=
  { q with cyc := q.cyc.debit cyc, byt := q.byt.debit byt, en := q.en.debit en }

/-- R328: adds to the debits a core has not reported yet, for the task of context x. -/
def State.debit (s : State) (c : CoreId) (x : CtxId) (cyc byt en : Nat) : State :=
  match (s.ctxAt c x).task.bind s.taskAt with
  | none => s
  | some t =>
    if t.timedSeg || t.scan.isSome then s
    else s.modCore c fun k =>
      if k.debits.any fun d => d.die == t.qdie && d.queue == t.queue then
        { k with debits := k.debits.map fun d =>
            if d.die == t.qdie && d.queue == t.queue then
              { d with cyc := d.cyc + cyc, byt := d.byt + byt, en := d.en + en } else d }
      else { k with debits := k.debits ++ [⟨t.qdie, t.queue, cyc, byt, en⟩] }

/-- R328: a pre-emption request to every core that runs a task of the queue. -/
def State.preemptQueue (s : State) (d : Bool) (q : BitVec 6) : State :=
  s.tasks.foldl (fun s t =>
    if t.qdie == d && t.queue == q && t.st == .running && !t.timedSeg && t.scan.isNone then
      match t.loc with
      | some (c, x) => if (s.coreAt c).timed then s else s.modCtx c x fun v => { v with preemptReq := true }
      | none => s
    else s) s

/-- R328: a core sends its accumulated debits to its stage manager. -/
def State.reportDebits (s : State) (c : CoreId) : State :=
  let ds := (s.coreAt c).debits
  let s := s.modCore c fun k => { k with debits := [], lastDebit := k.cycle }
  ds.foldl (fun s d =>
    let s := s.modQueue d.die d.queue fun q => if q.timed then q else q.debit d.cyc d.byt d.en
    if (s.queueAt d.die d.queue).broke then s.preemptQueue d.die d.queue else s) s

/-! ### Waking and ending tasks (R319, R320) -/

/-- R319: a task parked by AWAIT. -/
def Task.awaits (t : Task) : Bool :=
  t.st == .parked && (match t.why with
    | .await _ => true
    | _ => false)

/-- A parked AWAIT becomes READY at the resolution or freeing of its future; ages in list order. -/
def State.wakeParked (s : State) (id : Nat) : State :=
  let (a, s) := s.takeAge
  s.modTask id fun t => if t.awaits then { t with st := .ready, age := a, why := .none } else t

/-- R320: a task that does not go on from where it is parked leaves the waiter lists. -/
def State.forgetWaiter (s : State) (id : Nat) : State :=
  { s with fut := { s.fut with ents := s.fut.ents.map fun p => (p.1, { p.2 with waiters := p.2.waiters.filter (· != .parked id) }) } }

/-- A WAITING task whose last dependence this was becomes READY. -/
def State.wakeDep (s : State) (id : Nat) : State :=
  match s.taskAt id with
  | some t =>
    if t.st == .waiting && s.depsReady t then
      let (a, s) := s.takeAge
      s.modTask id fun t => { t with st := .ready, age := a }
    else s
  | none => s

/-- R320, FSET: every waiter in list order. -/
def State.wakeReady (s : State) (ws : List Waiter) : State :=
  ws.foldl (fun s w =>
    match w with
    | .dep t => s.wakeDep t
    | .parked t => s.wakeParked t) s

/-- R320, FFAIL and FFREE: parked waiters become READY; the WAITING tasks that fail are returned. -/
def waitersFailed (ws : List Waiter) : List Nat :=
  ws.filterMap fun w =>
    match w with
    | .dep t => some t
    | .parked _ => none

def State.wakeParkedAll (s : State) (ws : List Waiter) : State :=
  ws.foldl (fun s w =>
    match w with
    | .parked t => s.wakeParked t
    | .dep _ => s) s

/-- A task leaves the task table (R314, R319). -/
def State.dropTask (s : State) (id : Nat) (v : Option Word) : State :=
  { s with tasks := s.tasks.filter fun t => t.id ≠ id, ended := s.ended ++ [⟨id, v⟩] }

/-- R319, R320, R32: the listed tasks enter FAILED, and with them every task that waits on a result future
that this sets FAILED. Their contexts are not touched here. -/
def State.failTasks (s : State) (fuel : Nat) (work : List Nat) : State :=
  match fuel, work with
  | 0, _ => s
  | _, [] => s
  | n + 1, id :: rest =>
    match s.taskAt id with
    | none => s.failTasks n rest
    | some t =>
      let s := (s.dropTask id none).leaveCasts id
      match s.futLook t.tr.res with
      | .ok e =>
        if e.st = .pending ∧ futIndex t.tr.res ≠ 0 then
          let s := s.setFut (futIndex t.tr.res) { e with st := .failed, waiters := [] }
          (s.wakeParkedAll e.waiters).failTasks n (rest ++ waitersFailed e.waiters)
        else s.failTasks n rest
      | _ => s.failTasks n rest

/-- Enough for every task of the table to be listed by each of its dependences. -/
def State.failFuel (s : State) : Nat := 5 * s.tasks.length + 5

/-- R319: a task that holds no context enters FAILED. -/
def State.failTask (s : State) (id : Nat) : State := s.failTasks s.failFuel [id]

/-- R31, R320, R233: FSET of a PENDING future. -/
def State.futSet (s : State) (i : Nat) (e : FutEnt) (v : Word) : State :=
  (s.setFut i { e with st := .ready, val := v, waiters := [] }).wakeReady e.waiters

/-- R31, R320: FFAIL of a PENDING future. -/
def State.futFail (s : State) (i : Nat) (e : FutEnt) : State :=
  let s := (s.setFut i { e with st := .failed, waiters := [] }).wakeParkedAll e.waiters
  s.failTasks s.failFuel (waitersFailed e.waiters)

/-- R31, R319, R320: FFREE; the generation increases modulo 1024. A WAITING task enters FAILED when any of its
dependences is freed, one that was READY already among them (log 32). -/
def State.futFree (s : State) (i : Nat) (e : FutEnt) : State :=
  let s := s.setFut i { val := 0, gen := e.gen + 1, st := .empty, waiters := [] }
  let s := { s with fut := { s.fut with freed := s.fut.freed ++ [i] } }
  let s := s.wakeParkedAll e.waiters
  let deps := (s.tasks.filter fun t => t.st == .waiting && t.tr.deps.toList.contains (futHandle e.gen i)).map (·.id)
  s.failTasks s.failFuel (waitersFailed e.waiters ++ deps)

/-! ### Contexts (R23, R27, R29, R319) -/

/-- A context becomes FREE and loses its task, with the results that its task still had outstanding; the deep file and the spill store stay (R28, R64). -/
def Ctx.freed (v : Ctx) : Ctx :=
  { v with occ := .free, task := none, opened := false, gate := [], scalarLines := [], recs := [], touts := []
           tpfDone := 0, tldmSubs := [], soStores := [], cm := CommitState.idle, after := .none, infl := none
           reslot := none, ckReslot := none, rsDue := false, run := 0, race := 0, guarded := false, guardLines := [], solo := false
           preemptReq := false, halted := false, waitCast := none, waitWindow := none
           pend := [], uicause := 0, stale := [], homeAns := none, readHit := none, trapOf := none }

/-- R324: a core forgets the images of both halves when a task with BOTHHALVES ends. -/
def State.forgetHalves (s : State) (c : CoreId) (t : Task) : State :=
  if t.tr.flags.getLsbD 1 then s.modCore c fun k => { k with resid := Vector.replicate 2 none } else s

/-- R419: the scan task of a core leaves it. -/
def State.scanLeaves (s : State) (t : Task) : State :=
  match t.scan with
  | some c => s.modCore c fun k => { k with scanTask := none, scanRun := none }
  | none => s

/-- The context of a task that ends or is taken away becomes FREE. -/
def State.freeCtx (s : State) (c : CoreId) (x : CtxId) : State :=
  let s := s.reportDebits c
  let s := match (s.ctxAt c x).task.bind s.taskAt with
    | some t => (s.forgetHalves c t).scanLeaves t
    | none => s
  s.modCtx c x Ctx.freed

/-- R331: on a timed core the end of a task ends the segment. -/
def State.endSegment (s : State) (c : CoreId) : State :=
  if (s.coreAt c).timed then
    s.modCore c fun k => { k with order := k.order.map fun o => { o with live := false } }
  else s

/-- R375: a scan task that fails has told nothing of its core: the scan is scheduled again. -/
def State.rescan (s : State) (id : Nat) : State :=
  match (s.taskAt id).bind (·.scan) with
  | some k => s.modCore k fun v => { v with gapUsed := false }
  | none => s

/-- The task of a context enters FAILED and the context becomes FREE (R319, R388). Its region is closed or
rolled back before. -/
def State.failCtx (s : State) (c : CoreId) (x : CtxId) : State :=
  match (s.ctxAt c x).task with
  | none => s
  | some id => (((s.rescan id).freeCtx c x).failTask id).endSegment c

/-- R420 to R422: the stage manager acts on the value of a scan task's TEXIT: 0 clears the suspicion, or ends the routine scan, 1
retires the core, 2 leaves the scan due at the next idle gap, which an aborted scan makes this one (log 44). -/
def State.scanResult (s : State) (c : CoreId) (v : Word) : State :=
  let p := pcoreOf c
  if v = 0 then
    if (s.coreAt c).suspect then
      s.modCore c fun k => { k with suspect := false, errTimes := [], scanPos := 0 }
    else
      s.modDie (dieOf c) fun d =>
        { d with scanDue := d.scanDue.filter fun q => q != p, lastScan := assocPut d.lastScan p s.timeNs }
  else if v = 1 then s.modCore c fun k => { k with retiring := some ⟨s.timeNs, true, 0⟩ }
  else s.modCore c fun k => { k with gapUsed := false }

/-- R29, R232, R319: TEXIT: DONE, with the result future set READY when it is still PENDING. -/
def State.exitCtx (s : State) (c : CoreId) (x : CtxId) (v : Word) : State :=
  match (s.ctxAt c x).task with
  | none => s
  | some id =>
    match s.taskAt id with
    | none => s.freeCtx c x
    | some t =>
      let s := ((s.freeCtx c x).dropTask id (some v)).leaveCasts id
      let s := match s.futLook t.tr.res with
        | .ok e => if e.st = FutSt.pending ∧ futIndex t.tr.res ≠ 0 then s.futSet (futIndex t.tr.res) e v else s
        | _ => s
      let s := match t.scan with
        | some k => s.scanResult k v
        | none => s
      s.endSegment c

/-- Whether the queue of a task has an empty bucket. -/
def State.taskBroke (s : State) (t : Task) : Bool := !t.timedSeg && (s.queueAt t.qdie t.queue).broke

/-- R319: what the task waits for keeps it PARKED. -/
def ParkWhy.keeps (why : ParkWhy) : Bool :=
  match why with
  | .await _ => true
  | .hold => true
  | .none => false
  | .yield => false
  | .preempt => false
  | .bucket => false
  | .segment => false

/-- R27, R319: a task that parks, with the age a; broke tells of an empty bucket of its queue. -/
def Task.park (t : Task) (why : ParkWhy) (broke : Bool) (a : Nat) : Task :=
  if why.keeps then { t with st := .parked, why := why }
  else if broke then { t with st := .parked, why := .bucket, age := if why = .yield then a else t.age }
  else { t with st := .ready, why := why, age := if why = .yield then a else t.age }

/-- R27, R319, R328: the task of a context becomes PARKED there for the given reason, and READY at once when
nothing else holds it. -/
def State.parkCtx (s : State) (c : CoreId) (x : CtxId) (why : ParkWhy) : State :=
  let s := s.reportDebits c
  match (s.ctxAt c x).task with
  | none => s
  | some id =>
    let (a, s) := s.takeAge
    let broke := (s.taskAt id).any s.taskBroke
    let s := s.modTask id fun t => t.park why broke a
    let s := s.modCtx c x fun v =>
      { v with occ := .parked, preemptReq := false, predAge := Vector.replicate 16 1 }
    if (s.coreAt c).timed && why != .hold then s.endSegment c else s

end Sys2Proof.Machine
end

