-- ==== Sys2Proof/Machine/Memory.lean ====
section
/-! DEFINITION. Machine/Memory.lean: tensor descriptors, tile tables, leaves and translation
(R114, R115, R192, R253 to R261), and the bytes of the store gate (R39, R92). -/

namespace Sys2Proof.Machine

/-! ### Descriptors (R192) -/

def Desc.field (d : Desc) (lo n : Nat) : Nat := d.toNat / 2 ^ lo % 2 ^ n
def Desc.tid (d : Desc) : Nat := d.field 0 16
def Desc.rank (d : Desc) : Nat := d.field 16 2
def Desc.fmt (d : Desc) : Nat := d.field 20 4
def Desc.geom (d : Desc) : Nat := d.field 24 2
def Desc.plane (d : Desc) : Nat := d.field 26 2
def Desc.device (d : Desc) : Nat := d.field 28 4
def Desc.valid (d : Desc) : Bool := d.getLsbD 63
def Desc.dim (d : Desc) (i : Nat) : Nat := d.field (64 + 32 * i) 32
def Desc.root (d : Desc) : Nat := d.field (192 + 12) 36

/-- R190, R253: width in bytes of an element of a format code. -/
def fmtWidth (fmt : Nat) : Nat :=
  match fmt with
  | 3 | 4 | 7 | 11 => 2
  | 5 | 6 | 8 => 4
  | _ => 1

/-- R115: the legal combinations of format, geometry and plane. -/
def fmtLegal (fmt geom plane : Nat) : Bool :=
  match fmt with
  | 0 => geom = 0 && plane = 0
  | 1 | 2 => (geom = 0 || geom = 1) && plane = 0
  | 3 | 4 | 5 | 6 | 7 | 8 => geom = 0 && plane = 0
  | 9 => geom = 2 && plane = 0
  | 10 => (geom = 1 && plane = 0) || (geom = 2 && plane = 0) || (geom = 3 && plane = 1)
  | 11 => (geom = 2 && plane = 0) || (geom = 3 && (plane = 1 || plane = 2))
  | _ => false

/-- R114: the record size of a scaled or extension-plane geometry. -/
def recSize (geom plane : Nat) : Nat :=
  match geom with
  | 1 => 65
  | 2 => 49
  | _ => if plane = 2 then 32 else 16

/-- R253: the extent SZ in bytes. -/
def Desc.size (d : Desc) : Nat :=
  if d.geom = 0 then d.dim 0 * d.dim 1 * d.dim 2 * d.dim 3 * fmtWidth d.fmt
  else d.dim 1 * d.dim 2 * d.dim 3 * ceilDiv (d.dim 0) 64 * recSize d.geom d.plane

/-- R254: the physical address of the tensor table entry of an id. -/
def descAddr (id : Nat) : Nat := tensorTable + 64 * id

/-- R254: the tensor table entry of an id; id 0 is never valid. -/
def State.descOf (s : State) (id : Nat) : Desc := if id = 0 then 0 else BitVec.ofNat 512 (cellNat s.mem (descAddr id) 64)

/-! ### Physical addresses (R256, R257, R338) -/

/-- R14, R256: DM, 15/16 of the capacity the board has (log 18). -/
def State.dmBytes (s : State) : Nat := 15 * 2 ^ 26 * s.dev.boardGib.toNat

inductive Range where
  | device | host | regs | nothing
deriving DecidableEq, Repr

/-- R256: what a physical address names. -/
def State.rangeOf (s : State) (pa : Nat) : Range :=
  if pa < s.dmBytes then .device
  else if 0x800000000000 ≤ pa ∧ pa ≤ 0xEFFFFFFFFFFF then .host
  else if 0xF00000000000 ≤ pa ∧ pa ≤ 0xF00000FFFFFF then .regs
  else .nothing

def State.rangeReady (s : State) (pa : Nat) (r : Range) : Bool :=
  match r with
  | .device => s.dev.funcReady.getLsbD (pa / 64 % 24)
  | .host => s.dev.funcReady.getLsbD 33
  | .regs => true
  | .nothing => false

/-- R257, R338: the memory behind a physical address is ready: its channel, or the host link. -/
def State.memReady (s : State) (pa : Nat) : Bool := s.rangeReady pa (s.rangeOf pa)

/-! ### Leaves (R259) -/

structure Leaf where
  w : Bool
  so : Bool
  ut : Bool
  large : Bool
  c : Bool
  geom : Nat
  fmt : Nat
  plane : Nat
  lclass : Nat
  low : Nat
  frame : Nat
deriving DecidableEq, Repr

def Leaf.ofNat (e : Nat) : Leaf :=
  { w := bitAt e 1, so := bitAt e 2, ut := bitAt e 3, large := bitAt e 4, c := bitAt e 5
    geom := bits e 7 6, fmt := bits e 11 8, plane := bits e 13 12, lclass := bits e 17 14
    low := bits e 31 18, frame := bits e 63 32 }

/-- The 8 bytes of a leaf. -/
def Leaf.toNat (l : Leaf) : Nat :=
  1 + 2 * boolNat l.w + 4 * boolNat l.so + 8 * boolNat l.ut + 16 * boolNat l.large + 32 * boolNat l.c
    + 64 * l.geom + 256 * l.fmt + 4096 * l.plane + 16384 * l.lclass + 2 ^ 18 * l.low + 2 ^ 32 * l.frame

/-- R259: the legal combinations of SO, UT, W and C. -/
def Leaf.attrsOk (l : Leaf) : Bool :=
  if l.so then !l.ut && !l.c && l.fmt = 0 && l.geom = 0
  else if l.ut then !l.w && l.c
  else true

/-- R256, R259, R261: the ranges a leaf may name. -/
def Leaf.mayName (l : Leaf) (r : Range) : Bool :=
  match r with
  | .device => true
  | .host => l.so || l.ut
  | .regs => l.so
  | .nothing => false

def State.rangeOk (s : State) (l : Leaf) : Bool := l.mayName (s.rangeOf (65536 * l.frame))

/-- R259: a leaf that is not malformed; first tells the first level. -/
def State.leafOk (s : State) (first : Bool) (l : Leaf) : Bool :=
  l.attrsOk && l.low = 0 && fmtLegal l.fmt l.geom l.plane && (!l.large || (first && l.frame % 32 = 0))
    && s.rangeOk l

/-- How the page of a leaf is accessed (R259). -/
def Leaf.kind (l : Leaf) : PageKind := 
  if l.so then .ordered else if l.ut then .untracked (BitVec.ofNat 4 l.lclass)
  else if l.c then .tracked (BitVec.ofNat 4 l.lclass) else .uncached

/-- A page whose lines have tokens. -/
def PageKind.isTracked : PageKind → Bool
  | .tracked _ | .uncached => true
  | _ => false

/-- A page whose lines are cached without tokens (R260). -/
def PageKind.isUntracked : PageKind → Bool
  | .untracked _ => true
  | _ => false

/-! ### Translation (R255, R258, R261) -/

inductive Xlat where
  | fault
  | remote (dev : BitVec 4)
  | ok (pa : Nat) (leaf : Leaf)
deriving DecidableEq, Repr

/-- R258: the addresses of the first-level entry of offset b, and of the second-level entry under entry e1. -/
def Desc.firstAddr (d : Desc) (b : Nat) : Nat := 4096 * d.root + 8 * (b / 2 ^ 21)
def secondAddr (e1 b : Nat) : Nat := 256 * bits e1 47 8 + 8 * (b / 65536 % 32)

/-- R258: the walk of the two-level tile table, with the checks of R259 and R338: an entry on an unready channel is
refused like any other access there. -/
def State.walk (s : State) (d : Desc) (b : Nat) : Xlat :=
  let e1 := cellNat s.mem (d.firstAddr b) 8
  if !s.memReady (d.firstAddr b) || !bitAt e1 0 then .fault
  else if bitAt e1 4 then
    let l := Leaf.ofNat e1
    let pa := 65536 * l.frame + b % 2 ^ 21
    if s.leafOk true l && s.memReady pa then .ok pa l else .fault
  else if bits e1 3 1 ≠ 0 ∨ bits e1 7 5 ≠ 0 ∨ bits e1 63 48 ≠ 0 then .fault
  else
    let e2 := cellNat s.mem (secondAddr e1 b) 8
    if !s.memReady (secondAddr e1 b) || !bitAt e2 0 then .fault
    else
      let l := Leaf.ofNat e2
      let pa := 65536 * l.frame + b % 65536
      if s.leafOk false l && s.memReady pa then .ok pa l else .fault

/-- R407, R409: a device within reach. -/
def State.reachable (s : State) (dev : Nat) : Bool := s.dev.routes.any fun r => r.1.toNat == dev

/-- R253 to R261, R338: the translation of one byte at a 64-bit tensor address. -/
def State.translate (s : State) (addr : Nat) : Xlat :=
  let id := addr / 2 ^ 48 % 65536
  let d := s.descOf id
  if !s.memReady (descAddr id) || !d.valid || decide (d.size ≤ addr % 2 ^ 48) then .fault
  else if d.device ≠ s.dev.devNo.toNat then
    if s.reachable d.device then .remote (BitVec.ofNat 4 d.device) else .fault
  else s.walk d (addr % 2 ^ 48)

/-- The tensor and the page of an address under a leaf's size (R262). -/
def TlbEnt.ofAddr (addr : Nat) (large : Bool) : TlbEnt :=
  ⟨addr / 2 ^ 48 % 65536, addr % 2 ^ 48 / (if large then 2 ^ 21 else 2 ^ 16), large, false⟩

/-- R141: byte i of an access at base plus offset; the offset never carries into the id. -/
def tensorByte (base : Nat) (off : Int) (i : Nat) : Nat :=
  2 ^ 48 * (base / 2 ^ 48) + wrapTo 48 ((base % 2 ^ 48 : Nat) + off + (i : Nat))

/-- The key of a byte of another device in gates and records: its tensor address, and the device, above every physical one. -/
def remoteKey (dev : BitVec 4) (addr : Nat) : Nat := 2 ^ 64 * (1 + dev.toNat) + addr

def isRemoteKey (key : Nat) : Bool := decide (2 ^ 64 ≤ key)

/-- The tensor address and the device of a remote key. -/
def remoteAddr (key : Nat) : Nat := key % 2 ^ 64
def remoteDev (key : Nat) : BitVec 4 := BitVec.ofNat 4 (key / 2 ^ 64 - 1)

/-- The lines of other devices among keys, each by its first key. -/
def remoteFirsts : List (Nat × PageKind) → List Nat
  | [] => []
  | k :: rest =>
    if k.2 == .remote then k.1 :: (remoteFirsts rest).filter fun q => q / 64 != k.1 / 64 else remoteFirsts rest

/-- The key and page kind of a translated byte, or none where the access is refused (R141, R261). -/
def State.byteKey (s : State) (addr : Nat) (store : Bool) : Option (Nat × PageKind) :=
  match s.translate addr with
  | .fault => none
  | .remote d => some (remoteKey d addr, .remote)
  | .ok pa l => if store && !l.w then none else some (pa, l.kind)

/-- The keys of the bytes at the given addresses, or the first refused address. -/
def State.keysOf (s : State) (store : Bool) : List Nat → Except Nat (List (Nat × PageKind))
  | [] => .ok []
  | a :: rest =>
    match s.byteKey a store with
    | none => .error a
    | some k =>
      match s.keysOf store rest with
      | .error e => .error e
      | .ok ks => .ok (k :: ks)

/-- The line of a physical byte address (R257). -/
def lineOf (pa : Nat) : Nat := pa / 64

/-- The byte mask of a line that a list of physical addresses touches. -/
def maskOf (line : Nat) (pas : List Nat) : BitVec 64 :=
  pas.foldl (fun m a => if lineOf a = line then m ||| ((1 : BitVec 64) <<< (a % 64)) else m) 0

/-- Distinct elements, first occurrences kept. -/
def distinct {α : Type} [DecidableEq α] : List α → List α
  | [] => []
  | a :: rest => a :: (distinct rest).filter (· ≠ a)

/-- The tracked lines among keys. -/
def trackedLines (ks : List (Nat × PageKind)) : List Nat :=
  distinct ((ks.filter fun k => k.2.isTracked).map fun k => lineOf k.1)

/-! ### The store gate (R39, R92, R203) -/

/-- The byte a load at place lim of the program order finds in the gate: the latest store before it. -/
def gateRead (g : List GateByte) (key lim : Nat) : Option Byte :=
  (g.foldl (fun best e =>
    if e.key = key ∧ e.seq < lim then
      match best with
      | some b => if b.seq ≤ e.seq then some e else best
      | none => some e
    else best) (none : Option GateByte)).map (·.val)

/-- The byte the region leaves at a key: its latest store in program order. -/
def gateFinal (g : List GateByte) (key : Nat) : Option Byte :=
  gateRead g key ((g.foldl (fun m e => max m e.seq) 0) + 1)

/-- Bytes of gate a context holds, each byte once. -/
def Ctx.gateCount (v : Ctx) : Nat := (distinct (v.gate.map (·.key))).length

/-- The write set: tracked lines with gated bytes, and the mask of each (R41). -/
def Ctx.writeLines (v : Ctx) : List Nat :=
  distinct ((v.gate.filter fun e => !isRemoteKey e.key).map fun e => lineOf e.key)

def Ctx.writeMask (v : Ctx) (line : Nat) : BitVec 64 :=
  maskOf line ((v.gate.filter fun e => !isRemoteKey e.key).map (·.key))

/-- R40: adds a byte mask to the record of a line. -/
def addRec (rs : List (Nat × BitVec 64)) (line : Nat) (m : BitVec 64) : List (Nat × BitVec 64) :=
  assocPut rs line (((assoc rs line).getD 0) ||| m)

/-- The region's gated bytes merged into memory (R41 step 4). -/
def mergeGate (m : List Host.Cell) (g : List GateByte) : List Host.Cell :=
  (distinct ((g.filter fun e => !isRemoteKey e.key).map (·.key))).foldl
    (fun m k => match gateFinal g k with
      | some v => cellSet m k v
      | none => m) m

end Sys2Proof.Machine
end

