-- ==== Sys2Proof/Machine/Coherence.lean ====
section
/-! DEFINITION. Machine/Coherence.lean: token holdings, the homes' directory caches, messages in flight, requests and the
arbiter's table (R294 to R309). Token data is not kept: memory is one image of what the owner's copy gives (log 12). -/

namespace Sys2Proof.Machine

/-! ### Holdings -/

def Hold.none : Hold := ⟨0, false, false, false⟩

/-- One token that is not the owner token, without data (R295). -/
def Hold.single : Hold := ⟨1, false, false, false⟩

/-- R295: at reset the home holds all 256 tokens of a line, with the owner token, clean. -/
def LineSt.reset : LineSt :=
  { home := ⟨256, true, false, true⟩, l1d := [], slices := [], gath := [], rats := [], lent := [], homeLent := [], port := []
    nc := false, lclass := 0, stale := Option.none, st := .idle, wbPend := false, serving := Option.none, waiting := [], cnv := [] }

def State.lineAt (s : State) (line : Nat) : LineSt := (assoc s.coh.lines line).getD LineSt.reset

def State.setLine (s : State) (line : Nat) (l : LineSt) : State :=
  s.modCoh fun h => { h with lines := if l = LineSt.reset then assocDel h.lines line else assocPut h.lines line l }

def State.modLine (s : State) (line : Nat) (f : LineSt → LineSt) : State := s.setLine line (f (s.lineAt line))

def Hold.plus (a b : Hold) : Hold := ⟨a.count + b.count, a.owner || b.owner, a.dirty || b.dirty, a.valid || b.valid⟩

def LineSt.l1dHold (l : LineSt) (c : CoreId) : Hold := (assoc l.l1d c).getD Hold.none
def LineSt.sliceHold (l : LineSt) (d : Bool) : Hold := (assoc l.slices d).getD Hold.none
def LineSt.gathOf (l : LineSt) (c : CoreId) : Gath := (assoc l.gath c).getD ⟨Hold.none, []⟩

def LineSt.setL1d (l : LineSt) (c : CoreId) (h : Hold) : LineSt :=
  { l with l1d := if h = Hold.none then assocDel l.l1d c else assocPut l.l1d c h }

/-- R296: a slice line without a token holds no valid data. -/
def LineSt.setSlice (l : LineSt) (d : Bool) (h : Hold) : LineSt :=
  { l with slices := if h.count = 0 then assocDel l.slices d else assocPut l.slices d h }

def LineSt.setGath (l : LineSt) (c : CoreId) (g : Gath) : LineSt :=
  { l with gath := if g.hold.count = 0 then assocDel l.gath c else assocPut l.gath c g }

/-- R295: memory's copy is current when the home holds the owner token. -/
def LineSt.setHome (l : LineSt) (h : Hold) : LineSt := { l with home := { h with valid := h.owner } }

/-- The entry of core c holds its token now (R298, R277). -/
def LineSt.ratHolds (l : LineSt) (c : CoreId) : Bool := l.rats.contains c && !l.lent.contains c

/-- All tokens core c holds of the line: its L1D line, its access-table entry and what it has gathered. -/
def LineSt.coreTokens (l : LineSt) (c : CoreId) : Nat :=
  (l.l1dHold c).count + (l.gathOf c).hold.count + boolNat (l.ratHolds c)

/-- R296, R300, R367: a core holds valid data of a line while data has come to it and it holds a token of the line, of which its
access-table entry may hold the only one. -/
def LineSt.coreData (l : LineSt) (c : CoreId) : Bool :=
  ((l.l1dHold c).valid || (l.gathOf c).hold.valid) && decide (0 < l.coreTokens c)

/-- One non-owner token out of a holding, if it has one. -/
def Hold.spare (h : Hold) : Option Hold :=
  if 2 ≤ h.count ∨ (1 ≤ h.count ∧ !h.owner) then some { h with count := h.count - 1 } else Option.none

/-- Tokens of the line held by every holder; messages in flight come on top (R294). -/
def LineSt.held (l : LineSt) : Nat :=
  l.home.count + (l.l1d.map (·.2.count)).sum + (l.slices.map (·.2.count)).sum + (l.gath.map (·.2.hold.count)).sum
    + (l.rats.filter fun c => !l.lent.contains c).length

/-- The 64 bytes of a line as its owner has them. -/
def State.lineData (s : State) (line : Nat) : BitVec 512 := BitVec.ofNat 512 (cellNat s.mem (line * 64) 64)

/-- R296: a copy other than memory's is about to be written: memory keeps the line as it is now (log 12). -/
def State.keepStale (s : State) (line : Nat) : State :=
  if (s.lineAt line).stale.isSome then s else s.modLine line fun l => { l with stale := some (s.lineData line) }

/-! ### Messages and requests -/

/-- Puts a message in flight. -/
def State.sendMsg (s : State) (m : Instr) : State := s.modCoh fun h => { h with net := h.net ++ [m] }

/-- R296, R300: a TOK message, when it carries a token: with data when it carries the owner token, or when data is asked for
and the sender's copy is valid. -/
def State.sendTok (s : State) (line : Nat) (rq : Rq) (h : Hold) (asked : Bool) (lender : Option CoreId) : State :=
  if h.count = 0 then s
  else s.sendMsg (.tok ⟨line, rq, h.count, h.owner, h.dirty, h.owner || (asked && h.valid), lender⟩)

/-- R302: tokens written back to the home. -/
def State.sendHome (s : State) (line : Nat) (h : Hold) : State :=
  if h.count = 0 then s else s.sendMsg (.wb line h.count h.owner h.dirty)

/-- R277, R305: one RTN to each lender of a token. -/
def State.returnLent (s : State) (line : Nat) (lent : List CoreId) : State := lent.foldl (fun s d => s.sendMsg (.rtn line d)) s

/-- R277: lent tokens go on to another requester, which owes them to their lenders. -/
def State.lendOn (s : State) (line : Nat) (rq : Rq) (lent : List CoreId) : State :=
  lent.foldl (fun s d => s.sendTok line rq Hold.single false (some d)) s

def State.outOf (s : State) (rq : Rq) (line : Nat) : Option OutReq :=
  s.coh.outs.find? fun o => o.req.rq == rq && o.req.line == line

def State.dropOut (s : State) (rq : Rq) (line : Nat) : State :=
  s.modCoh fun h => { h with outs := h.outs.filter fun o => !(o.req.rq == rq && o.req.line == line) }

def State.modOut (s : State) (rq : Rq) (line : Nat) (f : OutReq → OutReq) : State :=
  s.modCoh fun h => { h with outs := h.outs.map fun o =>
    if o.req.rq == rq && o.req.line == line then f o else o }

/-- R299: a requester whose tokens stay at the home: RQ 512 to 514, or a context whose strongly-ordered access the home
performs (R259). -/
def State.goesHome (s : State) (rq : Rq) (line : Nat) : Bool :=
  !rqIsCore rq || (match s.outOf rq line with
    | some o => o.use == .home
    | Option.none => false)

/-- The message that carries a request to a stop (R300). -/
def reqMsg (r : Req) (held : Nat) (at_ : Stop) : Instr :=
  match r.kind with
  | .rd => .rd r at_
  | .rdx => .rdx r at_
  | .upg => .upg r held at_

/-- A request that asks for data (R300). -/
def asksData (k : ReqKind) : Bool := k != .upg

/-! ### The directory caches (R302) -/

/-- R302: the channel and the set of a line's directory-cache entry. -/
def dirSet (line : Nat) : Nat × Nat := (line % 24, line / 24 % 4096)

def State.hintOf (s : State) (line : Nat) : Option Hint := assoc s.coh.dir line

/-- R302: the home's directory cache takes up the entry of a line: at a miss with an empty hint, in the place of the least
recently used of the 16 entries of its set. -/
def State.dirTouch (s : State) (line : Nat) : State :=
  let h := (s.hintOf line).getD ⟨false, false, Option.none⟩
  let rest := assocDel s.coh.dir line
  let same := rest.filter fun p => dirSet p.1 == dirSet line
  let rest := if 16 ≤ same.length then assocDel rest (same.headD (line, h)).1 else rest
  s.modCoh fun v => { v with dir := rest ++ [(line, h)] }

def State.modHint (s : State) (line : Nat) (f : Hint → Hint) : State :=
  s.modCoh fun v => { v with dir := v.dir.map fun p => if p.1 = line then (p.1, f p.2) else p }

/-- Tokens of the line went to die d (log 39). -/
def Hint.sent (h : Hint) (d owner : Bool) : Hint :=
  { cd0 := h.cd0 || !d, cd1 := h.cd1 || d, owner := if owner then some d else h.owner }

/-- Every token of the line went to die d (log 39). -/
def Hint.only (d : Bool) : Hint := ⟨!d, d, some d⟩

/-- R302: the dies whose slices a FWD of GATHER goes to: the hinted ones, or every fitted die when the hint is empty. -/
def State.hintedDies (s : State) (line : Nat) : List Bool :=
  let h := (s.hintOf line).getD ⟨false, false, Option.none⟩
  let ds := [false, true].filter s.dieFitted
  let hit := ds.filter fun d => (if d then h.cd1 else h.cd0) || h.owner == some d
  if hit.isEmpty then ds else hit

/-! ### Bounds (R268, R269, R310) -/

/-- R268, R269: the LPDDR6 bound of a core's class. -/
def Core.lpddr (k : Core) : Nat :=
  match k.rclass with
  | .opn => 3400
  | .shared => 1100
  | .timed => 420

/-- R269: the bound of an unlocked L2 hit of the own die. -/
def Core.l2Bound (k : Core) : Nat :=
  match k.rclass with
  | .opn => 160
  | _ => 48

/-- Some holder of the line lies on a die. -/
def LineSt.onDie (l : LineSt) (d : Bool) : Bool :=
  (l.l1d.any fun p => dieOf p.1 == d && p.2.count != 0) || (l.slices.any fun p => p.1 == d)
    || (l.gath.any fun p => dieOf p.1 == d) || l.rats.any fun c => dieOf c == d && !l.lent.contains c

/-- R301: the slice of the requester's die serves the request from its own tokens. -/
def LineSt.sliceServes (l : LineSt) (d : Bool) (k : ReqKind) : Bool :=
  let h := l.sliceHold d
  match k with
  | .rd => decide (2 ≤ h.count) && h.valid
  | _ => h.count == Config.tokens

/-- R310: the gather bound of a request that a core makes now. -/
def State.gatherBound (s : State) (c : CoreId) (line : Nat) (kind : ReqKind) : Nat :=
  let l := s.lineAt line
  let d := dieOf c
  if l.sliceServes d kind then 120
  else
    (if l.onDie (!d) then 340 else 120)
      + max (if (s.hintOf line).isSome then 0 else 420) (if l.home.owner && asksData kind then (s.coreAt c).lpddr else 0)

/-! ### The port (R301, R268) -/

/-- R301: a request of a core that its port waits for: a request for every token of a line is answered when the core holds
them. -/
def State.atPort (s : State) (c : CoreId) (o : OutReq) : Bool :=
  rqIsCore o.req.rq && rqCore o.req.rq == c && o.use != .home && !(o.use == .untracked && o.converted)
    && !(o.req.cmt && (s.lineAt o.req.line).coreTokens c == Config.tokens)

def State.portCount (s : State) (c : CoreId) : Nat := (s.coh.outs.filter (s.atPort c)).length

/-- R268, R301: the port takes no further request for the line now: 16 are outstanding, or 4 on the channel of a core of class
TIMED. -/
def State.portFull (s : State) (c : CoreId) (line : Nat) : Bool :=
  decide (16 ≤ s.portCount c) || ((s.coreAt c).rclass == .timed
    && decide (4 ≤ (s.coh.outs.filter fun o => s.atPort c o && o.req.line % 24 == line % 24).length))

/-- R301: a request of a context is outstanding from now on; R328 charges its bytes. -/
def State.addOut (s : State) (c : CoreId) (x : CtxId) (r : Req) (bound : Nat) (use : ReadUse) (converted : Bool) : State :=
  (s.modCoh fun h => { h with outs := h.outs ++ [⟨r, (s.coreAt c).cycle, bound, use, converted⟩] }).debit c x 0 64 0

/-- R299 to R301: a context's request leaves the port; a request that is already outstanding is not sent again. One that finds
the port full waits, and is made when it is asked for again. The order in which waiting requests leave is that in which they are
asked for again, which R301 leaves open (DESIGN CHOICE, log 52). -/
def State.request (s : State) (c : CoreId) (x : CtxId) (kind : ReqKind) (line : Nat) (mask : BitVec 64)
    (cmt : Bool) (use : ReadUse) : State :=
  let rq := rqOf c x
  if (s.outOf rq line).isSome || s.portFull c line then s
  else
    let r : Req := ⟨line, rq, kind, mask, cmt⟩
    (s.addOut c x r (s.gatherBound c line kind) use false).sendMsg (reqMsg r ((s.lineAt line).coreTokens c) .slice)

/-- A read request (R300: MASK all ones). -/
def State.requestRead (s : State) (c : CoreId) (x : CtxId) (use : ReadUse) (line : Nat) : State :=
  s.request c x .rd line (BitVec.allOnes 64) false use

/-- R300: a commit or atomic sends UPG when its core holds valid data, RDX otherwise. -/
def State.requestAll (s : State) (c : CoreId) (x : CtxId) (line : Nat) (mask : BitVec 64) : State :=
  s.request c x (if (s.lineAt line).coreData c then .upg else .rdx) line mask true .scalar

/-! ### The arbiter (R307) -/

def State.activeOf (s : State) (line : Nat) : Option ActiveReq :=
  s.coh.arb.active.find? fun a => a.req.line == line

/-- R399: the request of a guarded context for a line is active. -/
def State.guardActive (s : State) (rq : Rq) (line : Nat) : Bool :=
  match s.activeOf line with
  | some a => a.req.rq == rq
  | Option.none => false

/-- R308: the requester has an active persistent request with a lower activation number. -/
def State.activeBefore (s : State) (rq : Rq) (act : Nat) : Bool :=
  s.coh.arb.active.any fun a => a.req.rq == rq && decide (a.act < act)

/-- R308: the requester has an active persistent request, or waits for one for the line. -/
def State.laterActive (s : State) (rq : Rq) (line : Nat) : Bool :=
  (s.coh.arb.active.any fun a => a.req.rq == rq) || s.coh.arb.waiting.any fun r => r.rq == rq && r.line == line

/-- R307, R399: the pool of a request: line acquisitions of guarded attempts have one of their own. -/
def State.poolOf (s : State) (r : Req) : Pool :=
  if r.rq.toNat = 514 then .recreation
  else if rqIsCore r.rq && (s.ctxAt (rqCore r.rq) (rqCtx r.rq)).guardLines.contains r.line then .guarded
  else .ordinary

def Pool.slots : Pool → Nat
  | .ordinary => 64 | .guarded => 64 | .recreation => 4

/-- R307: the first waiting RQ at or after the pointer, in rotation over RQ 0 to 513. -/
def rotate (ptr : Nat) (rqs : List Nat) : Option Nat :=
  rqs.foldl (fun best r =>
    match best with
    | Option.none => some r
    | some b => if (r + 514 - ptr) % 514 < (b + 514 - ptr) % 514 then some r else some b) Option.none

/-- R304, R307: the cores that hold tokens or an entry of the line, that of the requester left out. -/
def LineSt.coresBut (l : LineSt) (rq : Rq) : List CoreId :=
  (distinct (((l.l1d.filter fun p => p.2.count != 0).map (·.1)) ++ l.gath.map (·.1) ++ l.rats)).filter fun c =>
    !(rqIsCore rq && rqCore rq == c)

/-- R307: the holders a PACT goes to: every core that holds tokens or an entry, every slice that holds tokens, and the home. -/
def State.holdersFor (s : State) (line : Nat) (rq : Rq) : List Holder :=
  let l := s.lineAt line
  ((l.coresBut rq).map Holder.l1d) ++ ((distinct (l.slices.map (·.1))).map Holder.slice) ++ [Holder.home]

/-- R307: the rotation pointer of a line stays while some requester waits for it. -/
def Arbiter.tidyPtr (a : Arbiter) : Arbiter :=
  { a with ptr := a.ptr.filter fun p => a.waiting.any fun r => r.line == p.1 }

/-- R307: activates waiting requests for a line: no request active for it, a slot free in its pool, and the
rotation for the line won; recreation goes first, and the others wait for it where its slots are taken (R404). -/
def State.activate (s : State) (line : Nat) : State :=
  if (s.activeOf line).isSome then s
  else
    let a := s.coh.arb
    let open_ (r : Req) : Bool :=
      r.line == line
        && decide ((a.active.filter fun t => t.pool == s.poolOf r).length < (s.poolOf r).slots)
    let cand := a.waiting.filter open_
    let pick : Option Req := match a.waiting.find? fun r => r.line == line && decide (r.rq.toNat = 514) with
      | some r => if open_ r then some r else Option.none
      | Option.none =>
        match rotate ((assoc a.ptr line).getD 0) (cand.map fun r => r.rq.toNat) with
        | some n => cand.find? fun r => decide (r.rq.toNat = n)
        | Option.none => Option.none
    match pick with
    | Option.none => s
    | some r =>
      let told := s.holdersFor line r.rq
      let s := s.modCoh fun h => { h with arb := ({ a with
        waiting := eraseFirst (fun q => q == r) a.waiting
        active := a.active ++ [(⟨r, a.next, s.poolOf r, s.timeNs, told⟩ : ActiveReq)], next := a.next + 1
        ptr := if r.rq.toNat = 514 then a.ptr else assocPut a.ptr line ((r.rq.toNat + 1) % 514) } : Arbiter).tidyPtr }
      told.foldl (fun s d => s.sendMsg (.pact r a.next d)) s

/-- R307: every line with a waiting request is offered to the arbiter's slots. -/
def State.activateAll (s : State) : State :=
  (distinct (s.coh.arb.waiting.map (·.line))).foldl (fun s l => s.activate l) s

/-- R307: PREL to the holders that had the PACT. -/
def State.sendPrel (s : State) (a : ActiveReq) : State := a.told.foldl (fun s d => s.sendMsg (.prel ⟨a.req.line, d⟩)) s

/-- R307: the arbiter's waiting requests for which p holds are withdrawn. -/
def State.unwait (s : State) (p : Req → Bool) : State :=
  s.modCoh fun h => { h with arb := ({ h.arb with waiting := h.arb.waiting.filter fun r => !p r } : Arbiter).tidyPtr }

end Sys2Proof.Machine
end

