-- ==== Sys2Proof/Machine/Caches.lean ====
section
/-! DEFINITION. Machine/Caches.lean: the L1Ds, the L2 slices with their lock classes, the translation caches, where released
tokens go, pins, and untracked copies (R251, R252, R260 to R266, R269, R270, R286, R298, R305, R308). -/

namespace Sys2Proof.Machine

/-! ### Sets and ways (R264 to R266) -/

/-- R264: the L1D set of a line. -/
def l1dSet (line : Nat) : Nat := line % 128

/-- R265: the slice and the set of a line in its die's L2. -/
def sliceNo (line : Nat) : Nat := line % 32 ^^^ line / 32 % 32 ^^^ line / 1024 % 32 ^^^ line / 32768 % 32
def l2Set (line : Nat) : Nat := line / 32 % 2048

/-- R265: the lock class of a way of a slice; ways 12 to 15 are unlocked. -/
def Die.wayClass (v : Die) (slice way : Nat) : BitVec 4 := if 12 ≤ way then 0 else (assoc v.ways (slice, way)).getD 0

/-- R266: the ways that a line of a lock class may occupy. -/
def Die.waysFor (v : Die) (line : Nat) (cls : BitVec 4) : List Nat :=
  let of (k : BitVec 4) : List Nat := (List.range 16).filter fun w => v.wayClass (sliceNo line) w == k
  if cls = 0 ∨ (of cls).isEmpty then of 0 else of cls

/-- R266: the line lies in a locked way of its slice. -/
def Die.lockedHit (v : Die) (line : Nat) : Bool :=
  match assoc v.l2 line with
  | some w => v.wayClass (sliceNo line) w != 0
  | none => false

/-- R260: the untracked copy of a line in a core's L1D, or in a die's slice. -/
def State.utL1d (s : State) (c : CoreId) (line : Nat) : Option (BitVec 512) :=
  (s.coh.ut.find? fun u => u.line == line && u.core == some c).map (·.data)
def State.utSlice (s : State) (d : Bool) (line : Nat) : Option (BitVec 512) :=
  (s.coh.ut.find? fun u => u.line == line && u.die == d && u.core.isNone).map (·.data)

/-- The untracked copy is gone. -/
def State.dropUt (s : State) (d : Bool) (core : Option CoreId) (line : Nat) : State :=
  s.modCoh fun h => { h with ut := h.ut.filter fun u => !(u.line == line && u.die == d && u.core == core) }

/-! ### L2 slices (R265, R266) -/

/-- R266: a line leaves its slice: its tokens go back to the home. -/
def State.evictL2 (s : State) (d : Bool) (line : Nat) : State :=
  let l := s.lineAt line
  (((s.modDie d fun v => { v with l2 := assocDel v.l2 line }).setLine line (l.setSlice d Hold.none)).dropUt d none line).sendHome
    line (l.sliceHold d)

/-- R265, R266: the slice of the die holds a way for the line, in the place of the least recently used line that may lie
there. Of several free ways of its class it takes the lowest numbered, which R266 leaves open (DESIGN CHOICE, log 55). -/
def State.fillL2 (s : State) (d : Bool) (line : Nat) (cls : BitVec 4) : State :=
  let v := s.dieAt d
  match assoc v.l2 line with
  | some w => s.modDie d fun v => { v with l2 := assocDel v.l2 line ++ [(line, w)] }
  | none =>
    let ws := v.waysFor line cls
    let here := v.l2.filter fun p => sliceNo p.1 == sliceNo line && l2Set p.1 == l2Set line
    match ws.find? fun w => !here.any fun p => p.2 == w with
    | some w => s.modDie d fun v => { v with l2 := v.l2 ++ [(line, w)] }
    | none =>
      match here.find? fun p => ws.contains p.2 with
      | some (old, w) => (s.evictL2 d old).modDie d fun v => { v with l2 := v.l2 ++ [(line, w)] }
      | none => s

/-- A slice with no token and no untracked copy of a line does not hold it. -/
def State.tidyL2 (s : State) (d : Bool) (line : Nat) : State :=
  if ((s.lineAt line).sliceHold d).count = 0 && (s.utSlice d line).isNone then
    s.modDie d fun v => { v with l2 := assocDel v.l2 line }
  else s

/-- The slice of a die gets tokens of a line. -/
def State.toSlice (s : State) (d : Bool) (line : Nat) (h : Hold) : State :=
  if h.count = 0 then s
  else (s.fillL2 d line (s.lineAt line).lclass).modLine line fun l => l.setSlice d ((l.sliceHold d).plus h)

/-- What the slice of a die keeps of a line. -/
def State.keepSlice (s : State) (d : Bool) (line : Nat) (h : Hold) : State :=
  (s.modLine line fun l => l.setSlice d h).tidyL2 d line

/-! ### The L1D (R264) -/

/-- A commit, an atomic or a guarded attempt of the core gathers the line. -/
def State.gathering (s : State) (c : CoreId) (line : Nat) : Bool :=
  s.coh.outs.any fun o => rqIsCore o.req.rq && rqCore o.req.rq == c && o.req.line == line && o.req.cmt && o.use != .home

/-- R304: context y has confirmed a commit whose step 5 is still to come, and writes the line or has a record of it. -/
def State.sealedCtx (s : State) (c : CoreId) (line : Nat) (y : CtxId) : Bool :=
  (s.ctxAt c y).cm.phase == .merge
    && ((s.ctxAt c y).writeLines.contains line || (assoc (s.ctxAt c y).recs line).isSome)

/-- R304: a confirmed commit of the core, which gives up no token before its step 5, holds tokens of the line. -/
def State.sealedLine (s : State) (c : CoreId) (line : Nat) : Bool := allCtxs.any (s.sealedCtx c line)

/-- R304, R305: tokens of the line stay with the core: it gathers the line, or has confirmed a commit of it. -/
def State.keepsLine (s : State) (c : CoreId) (line : Nat) : Bool := s.gathering c line || s.sealedLine c line

/-- R278, R304, R308: the core holds all 256 tokens of a line for its context x: no confirmed commit of another context of the core
has them, and no active persistent request of one that came before any of x's own. -/
def State.lineReady (s : State) (c : CoreId) (x : CtxId) (line : Nat) : Bool :=
  (s.lineAt line).coreTokens c == Config.tokens && !(allCtxs.any fun y => y != x && s.sealedCtx c line y)
    && (match s.activeOf line with
      | some a => !(rqIsCore a.req.rq && rqCore a.req.rq == c && rqCtx a.req.rq != x && (s.outOf a.req.rq line).isSome)
          || s.activeBefore (rqOf c x) a.act
      | Option.none => true)

/-- R308: tokens that a holder beside core c has or receives go to the requester whose persistent request for the line is active,
unless that is a context of the core which has what it asked for; otherwise k takes them. -/
def State.orActive (s : State) (c : CoreId) (line : Nat) (h : Hold) (k : State → State) : State :=
  match s.activeOf line with
  | some a =>
    if rqIsCore a.req.rq && rqCore a.req.rq == c && (s.outOf a.req.rq line).isNone then k s
    else s.sendTok line a.req.rq h (asksData a.req.kind) Option.none
  | Option.none => k s

/-- Gathered tokens join those of the core. -/
def State.toGath (s : State) (c : CoreId) (line : Nat) (h : Hold) (lender : Option CoreId) : State :=
  s.modLine line fun l => l.setGath c ⟨(l.gathOf c).hold.plus h, (l.gathOf c).lent ++ lender.toList⟩

/-- R264: a line leaves the L1D: its tokens go to the slice of the die, to the home for a line that no cache holds, or stay
with the core that is gathering the line or has confirmed a commit of it (R304). -/
def State.evictL1d (s : State) (c : CoreId) (line : Nat) : State :=
  let l := s.lineAt line
  let h := l.l1dHold c
  let s := ((s.modCore c fun k => { k with l1d := k.l1d.erase line }).setLine line (l.setL1d c Hold.none)).dropUt
    (dieOf c) (some c) line
  if h.count = 0 then s
  else if s.keepsLine c line then s.toGath c line h none
  else if l.nc then s.sendHome line h
  else s.orActive c line h fun s => s.toSlice (dieOf c) line h

/-- R264: a scalar access of a line that the L1D holds. -/
def State.touchL1d (s : State) (c : CoreId) (line : Nat) : State :=
  if (s.coreAt c).l1d.contains line then s.modCore c fun k => { k with l1d := k.l1d.erase line ++ [line] } else s

/-- R264: the L1D holds a way for the line, in the place of the least recently used one of its set. -/
def State.fillL1d (s : State) (c : CoreId) (line : Nat) : State :=
  if (s.coreAt c).l1d.contains line then s.touchL1d c line
  else
    let same := (s.coreAt c).l1d.filter fun m => l1dSet m == l1dSet line
    let s := if 4 ≤ same.length then s.evictL1d c (same.headD line) else s
    s.modCore c fun k => { k with l1d := k.l1d ++ [line] }

/-- An L1D with no token, no data and no untracked copy of a line does not hold it. -/
def State.tidyL1d (s : State) (c : CoreId) (line : Nat) : State :=
  if (s.lineAt line).l1dHold c = Hold.none && (s.utL1d c line).isNone then
    s.modCore c fun k => { k with l1d := k.l1d.erase line }
  else s

/-- What the L1D of a core keeps of a line; R296: its data is not valid once the core holds no token of the line. -/
def State.keepL1d (s : State) (c : CoreId) (line : Nat) (h : Hold) : State :=
  (s.modLine line fun l =>
    let t := l.setL1d c h
    if t.coreTokens c = 0 then t.setL1d c Hold.none else t).tidyL1d c line

/-- R296: a core that holds no token of a line any more has no valid data of it. -/
def State.lastToken (s : State) (c : CoreId) (line : Nat) : State :=
  if (s.lineAt line).coreTokens c = 0 then
    (s.modLine line fun l => { l.setL1d c Hold.none with port := l.port.erase c }).tidyL1d c line
  else s

/-! ### Where released tokens go (R305, R308, R381) -/

/-- R305: tokens stay in the core's L1D when it holds the line, in the slice of its die otherwise; those of a line that no cache
holds go home. -/
def State.placeCache (s : State) (c : CoreId) (line : Nat) (h : Hold) : State :=
  if h.count = 0 then s
  else if (s.lineAt line).nc then s.sendHome line h
  else if (s.coreAt c).l1d.contains line && (s.utL1d c line).isNone then
    s.modLine line fun l => l.setL1d c ((l.l1dHold c).plus h)
  else s.toSlice (dieOf c) line h

/-- R305, R308: released tokens go to the active requester, else to a cache of the core's die. -/
def State.placeTokens (s : State) (c : CoreId) (line : Nat) (h : Hold) : State :=
  s.orActive c line h fun s => s.placeCache c line h

/-! ### Pins (R40, R298) -/

/-- Some context of core c other than x has a record of the line. -/
def State.otherRecord (s : State) (c : CoreId) (x : CtxId) (line : Nat) : Bool :=
  allCtxs.any fun y => y != x && (assoc (s.ctxAt c y).recs line).isSome

/-- R298, R305: context x gives up its record of a line; the entry and its token go with the last record. -/
def State.dropPin (s : State) (c : CoreId) (x : CtxId) (line : Nat) : State :=
  let s := s.modCtx c x fun v => { v with recs := assocDel v.recs line }
  if s.otherRecord c x line then s
  else
    let l := s.lineAt line
    if !l.rats.contains c then s
    else
      let holds := l.ratHolds c
      let s := s.setLine line { l with rats := l.rats.erase c, lent := l.lent.erase c, port := l.port.erase c }
      (if holds then s.placeTokens c line Hold.single else s).lastToken c line

/-- R252: an engine's read is served by the L1D only where that holds the owner token. -/
def ReadUse.mayTake (u : ReadUse) (h : Hold) : Bool := u == .scalar || h.owner

/-- R298, R40: the access-table entry of core c for the line holds a token, taken from the L1D, or from gathered tokens, where
there is a spare one; false while it has lent it or none is at the core. -/
def State.tryPin (s : State) (c : CoreId) (use : ReadUse) (line : Nat) : Bool × State :=
  let l := s.lineAt line
  if l.rats.contains c then (!l.lent.contains c, s)
  else
    match (if use.mayTake (l.l1dHold c) then (l.l1dHold c).spare else Option.none), (l.gathOf c).hold.spare with
    | some h, _ => (true, s.setLine line { l.setL1d c h with rats := l.rats ++ [c] })
    | Option.none, some h => (true, s.setLine line { l.setGath c { l.gathOf c with hold := h } with rats := l.rats ++ [c] })
    | Option.none, Option.none => (false, s)

/-- R252, R296: valid data of the line is at the core for the access. -/
def LineSt.dataFor (l : LineSt) (c : CoreId) (use : ReadUse) : Bool :=
  l.port.contains c || (l.gathOf c).hold.valid || ((l.l1dHold c).valid && use.mayTake (l.l1dHold c))

/-- R40: pins every line for the context, with a record that has no byte yet, and for a read has its data; asks for the tokens
or the data that are missing, which waits while the entry's token is lent (R277). -/
def State.pinAll (s : State) (c : CoreId) (x : CtxId) (use : ReadUse) (reads : Bool) (lines : List Nat) : Bool × State :=
  lines.foldl (fun (ok, s) l =>
    let (pinned, s) := s.tryPin c use l
    let s := if pinned then s.modCtx c x fun v => { v with recs := addRec v.recs l 0 } else s
    if pinned && (!reads || (s.lineAt l).dataFor c use) then (ok, s)
    else (false, if (s.lineAt l).lent.contains c then s else s.requestRead c x use l)) (true, s)

/-- R277: an access to one of the lines waits for the token that the core's entry has lent. -/
def State.lentAny (s : State) (c : CoreId) (lines : List Nat) : Bool := lines.any fun l => (s.lineAt l).lent.contains c

/-- R40: the pins of a context that are still to come are asked for again. -/
def State.retryPins (s : State) (c : CoreId) (x : CtxId) : State :=
  let v := s.ctxAt c x
  (v.recs.filter fun r => !(s.lineAt r.1).rats.contains c).foldl (fun s r =>
    (s.pinAll c x (if v.scalarLines.contains r.1 then .scalar else .engine) false [r.1]).2) s

/-- The data that the port has for the accesses to the lines is used. -/
def State.clearPort (s : State) (c : CoreId) (lines : List Nat) : State :=
  lines.foldl (fun s l => if (s.lineAt l).port.contains c then s.modLine l fun v => { v with port := v.port.erase c } else s) s

/-- The lock class of a page's lines (R266). -/
def PageKind.lclass : PageKind → BitVec 4
  | .tracked k => k
  | .untracked k => k
  | _ => 0

/-- R295, R266: whether caches may hold the lines of the bytes, and in which ways. -/
def State.markLines (s : State) (ks : List (Nat × PageKind)) : State :=
  (trackedLines ks).foldl (fun s l =>
    s.modLine l fun v => { v with
      nc := ks.any fun k => lineOf k.1 == l && k.2 == .uncached
      lclass := ((ks.find? fun k => lineOf k.1 == l).map fun k => k.2.lclass).getD 0 }) s

/-- R40, R92: records the byte masks of tracked bytes at their lines. -/
def State.recordBytes (s : State) (c : CoreId) (x : CtxId) (ks : List (Nat × PageKind)) : State :=
  let pas := (ks.filter fun k => k.2.isTracked).map (·.1)
  (s.markLines ks).modCtx c x fun v =>
    { v with recs := (distinct (pas.map lineOf)).foldl (fun rs l => addRec rs l (maskOf l pas)) v.recs }

/-! ### Untracked copies (R252, R260, R286) -/

/-- R286: the bytes that memory gives for an untracked line: those of a copy of the owner's, or those of memory, which of the
two is a free choice where they differ (log 9); a valid copy in the own L1D or slice is found first (R252, R260). -/
def State.memoryLine (s : State) (c : CoreId) (line : Nat) : BitVec 512 × State :=
  let l := s.lineAt line
  match l.stale with
  | some old =>
    if l.coreData c || (l.sliceHold (dieOf c)).valid then (s.lineData line, s)
    else if (s.freshBool).1 then (old, (s.freshBool).2) else (s.lineData line, (s.freshBool).2)
  | none => (s.lineData line, s)

/-- R252, R260, R286: a read of an untracked line by context x: from the L1D for a scalar access, from the slice of the die, or
from the home, which charges the request (R329). The slice keeps a copy, and the L1D after a scalar access (R264). -/
def State.readUntracked (s : State) (c : CoreId) (x : CtxId) (scalar : Bool) (cls : BitVec 4) (line : Nat) : BitVec 512 × State :=
  let d := dieOf c
  let own (s : State) (data : BitVec 512) : State :=
    if scalar then (s.fillL1d c line).modCoh fun h => { h with ut := h.ut ++ [⟨d, some c, line, data⟩] } else s
  match (if scalar then s.utL1d c line else none), s.utSlice d line with
  | some data, _ => (data, s.touchL1d c line)
  | none, some data => (data, own (s.fillL2 d line cls) data)
  | none, none =>
    let (data, s) := (s.debit c x 0 0 40).memoryLine c line
    let s := (s.fillL2 d line cls).modCoh fun h => { h with ut := h.ut ++ [⟨d, none, line, data⟩] }
    (data, own s data)

/-- R260, R301: a request for an untracked line that an access of context x reads leaves its port, and its data comes from the
next cycle on; true once it has, or where the L1D serves the access. -/
def State.fetchUntracked (s : State) (c : CoreId) (x : CtxId) (scalar : Bool) (l : Nat × BitVec 4) : Bool × State :=
  let rq := rqOf c x
  if scalar && (s.utL1d c l.1).isSome then (true, s)
  else
    match s.outOf rq l.1 with
    | some o =>
      if o.use != .untracked then (false, s)
      else if o.converted then (true, s)
      else if (s.coreAt c).cycle ≤ o.since then (false, s)
      else (true, (s.readUntracked c x scalar l.2 l.1).2.modOut rq l.1 fun o => { o with converted := true })
    | none =>
      (false, if s.portFull c l.1 then s else s.addOut c x ⟨l.1, rq, .rd, BitVec.allOnes 64, false⟩ 0 .untracked false)

/-- R301: the untracked lines of an access; true once the data of each has come. -/
def State.fetchAllUntracked (s : State) (c : CoreId) (x : CtxId) (scalar : Bool) (ls : List (Nat × BitVec 4)) : Bool × State :=
  ls.foldl (fun (ok, s) l => let (here, s) := s.fetchUntracked c x scalar l; (ok && here, s)) (true, s)

/-- The requests of context x for untracked lines end with the access that they served. -/
def State.endUntracked (s : State) (c : CoreId) (x : CtxId) (ls : List (Nat × BitVec 4)) : State :=
  s.modCoh fun h => { h with outs := h.outs.filter fun o =>
    !(o.req.rq == rqOf c x && o.use == .untracked && o.converted && ls.any fun l => l.1 == o.req.line) }

/-- R260: a commit removes the untracked copies of a line it writes from the committing core's L1D and from
the slice of its die. -/
def State.dropUntracked (s : State) (c : CoreId) (line : Nat) : State :=
  (((s.dropUt (dieOf c) (some c) line).dropUt (dieOf c) none line).tidyL1d c line).tidyL2 (dieOf c) line

/-- R260, R286, R341: the untracked copies of the lines for which p holds are removed from every L1D and L2. -/
def State.dropUntrackedAll (s : State) (p : Nat → Bool) : State :=
  let gone := s.coh.ut.filter fun u => p u.line
  let s := s.modCoh fun h => { h with ut := h.ut.filter fun u => !p u.line }
  gone.foldl (fun s u => match u.core with
    | some c => s.tidyL1d c u.line
    | none => s.tidyL2 u.die u.line) s

/-! ### Translation caches (R262, R263, R269, R270) -/

/-- R262: the die TLB's set of an entry. -/
def TlbEnt.set (e : TlbEnt) : Nat := e.tid % 256 ^^^ e.tid / 256 % 256 ^^^ e.page % 256 ^^^ e.page / 256 % 256

def TlbEnt.same (e f : TlbEnt) : Bool := e.tid == f.tid && e.page == f.page && e.large == f.large

/-- R262: an entry becomes the most recently used of a TLB; the least recently used unlocked one of those it competes with gives
way when all n places are taken. -/
def tlbPut (n : Nat) (rival : TlbEnt → Bool) (t : List TlbEnt) (e : TlbEnt) : List TlbEnt :=
  match t.find? (TlbEnt.same e) with
  | some f => t.filter (fun g => !e.same g) ++ [f]
  | none =>
    if n ≤ (t.filter rival).length then
      match (t.filter rival).find? fun f => !f.locked with
      | some old => t.erase old ++ [e]
      | none => t
    else t ++ [e]

def Core.tlbUse (k : Core) (e : TlbEnt) : Core := { k with tlb := tlbPut 64 (fun _ => true) k.tlb e }
def Die.dtlbUse (v : Die) (e : TlbEnt) : Die := { v with dtlb := tlbPut 8 (fun f => f.set == e.set) v.dtlb e }

/-- R262: the tensor-entry cache takes up an id. -/
def Core.teUse (k : Core) (id : Nat) : Core :=
  let rest := k.teCache.erase id
  { k with teCache := (if 16 ≤ rest.length then rest.drop 1 else rest) ++ [id] }

/-- R270: the bound of a read of a table's line by a core's class. -/
def State.tableRead (s : State) (c : CoreId) (pa : Nat) : Nat :=
  if (assoc (s.dieAt (dieOf c)).l2 (lineOf pa)).isSome then (s.coreAt c).l2Bound else (s.coreAt c).lpddr

/-- R251, R262: a read of a table's line goes through the unlocked ways of the die's L2. -/
def State.tableFill (s : State) (c : CoreId) (pa : Nat) : State := s.fillL2 (dieOf c) (lineOf pa) 0

/-- R270: a tensor-entry cache miss, or none. -/
def State.entryBound (s : State) (c : CoreId) (id : Nat) : Nat :=
  if (s.coreAt c).teCache.contains id then 0 else 12 + s.tableRead c (descAddr id)

/-- R270: the bound of a walk of the tables for an address. -/
def State.walkBound (s : State) (c : CoreId) (addr : Nat) (large : Bool) : Nat :=
  let d := s.descOf (addr / 2 ^ 48 % 65536)
  let b := addr % 2 ^ 48
  let a1 := d.firstAddr b
  let one := s.tableRead c a1
  12 + one + (if large then one else s.tableRead c (secondAddr (cellNat s.mem a1 8) b)) + 6

/-- R262: walks of a die that have not ended on the clock of their core. -/
def State.walksNow (s : State) (d : Bool) : List (CoreId × Nat) :=
  (s.dieAt d).walks.filter fun w => decide ((s.coreAt w.1).cycle < w.2)

/-- R262, R270: the lookup of one page: its bound, and the caches after it. -/
def State.pageLookup (s : State) (c : CoreId) (addr : Nat) (large : Bool) : Nat × State :=
  let e := TlbEnt.ofAddr addr large
  let d := dieOf c
  let use (s : State) : State := (s.modCore c fun k => k.tlbUse e).modDie d fun v => v.dtlbUse e
  if (s.coreAt c).tlb.any e.same then (0, s.modCore c fun k => k.tlbUse e)
  else if (s.dieAt d).dtlb.any e.same then (12, use s)
  else
    let one := s.walkBound c addr large
    let n := one * (1 + min 8 (s.walksNow d).length)
    let t := s.descOf (addr / 2 ^ 48 % 65536)
    let a1 := t.firstAddr (addr % 2 ^ 48)
    let s := s.tableFill c a1
    let s := if large then s else s.tableFill c (secondAddr (cellNat s.mem a1 8) (addr % 2 ^ 48))
    let w := s.walksNow d ++ [(c, (s.coreAt c).cycle + n)]
    (n, use (s.modDie d fun v => { v with walks := w }))

/-- R270: the translation of an address by a core: its bound, and the caches after it. -/
def State.lookup (s : State) (c : CoreId) (addr : Nat) : Nat × State :=
  let id := addr / 2 ^ 48 % 65536
  let te := s.entryBound c id
  let s := (if te = 0 then s else s.tableFill c (descAddr id)).modCore c fun k => k.teUse id
  match s.translate addr with
  | .ok _ leaf => let (n, s) := s.pageLookup c addr leaf.large; (te + n, s)
  | _ => (te, s)

/-- R262, R270: the translations of an access's pages: the larger bound, and the caches after them. -/
def State.lookupAll (s : State) (c : CoreId) (addrs : List Nat) : Nat × State :=
  ((distinct (addrs.map fun a => a / 65536)).map fun p => (addrs.find? fun a => a / 65536 = p).getD 0).foldl
    (fun (m, s) a => let (n, s) := s.lookup c a; (max m n, s)) (0, s)

/-- R263: Wyane invalidates the entries of a tensor in every translation cache. -/
def State.flushTensor (s : State) (id : Nat) : State :=
  let core (k : Core) : Core :=
    { k with teCache := k.teCache.erase id, teFetch := k.teFetch.filter fun f => f.1 != id
             tlb := k.tlb.filter fun e => e.tid != id }
  let die (v : Die) : Die :=
    { v with dtlb := v.dtlb.filter fun e => e.tid != id, layouts := v.layouts.filter fun l => l.2 != id }
  { s with cores := s.cores.map core, dies := s.dies.map die }

/-- The lines of n bytes from a physical address on leave every L2, where Wyane has written them as tables (R263). -/
def State.dropTableLines (s : State) (a n : Nat) : State :=
  let gone (line : Nat) : Bool := decide (a / 64 ≤ line) && decide (line ≤ (a + n - 1) / 64)
    && (s.lineAt line).slices.isEmpty && !(s.coh.ut.any fun u => u.line == line)
  { s with dies := s.dies.map fun v => { v with l2 := v.l2.filter fun p => !gone p.1 } }

/-- R262: the layout instance of a slice takes up a tensor, 16 of them at most. -/
def Die.layoutUse (v : Die) (slice id : Nat) : Die :=
  let rest := v.layouts.filter fun l => l != (slice, id)
  let same := rest.filter fun l => l.1 == slice
  { v with layouts := (if 16 ≤ same.length then rest.erase (same.headD (slice, id)) else rest) ++ [(slice, id)] }

/-- R269: the bound of a hit in the slice of the core's die. -/
def State.hitBound (s : State) (c : CoreId) (line : Nat) : Nat :=
  if (s.dieAt (dieOf c)).lockedHit line && (s.coreAt c).rclass != .opn then 36 else (s.coreAt c).l2Bound

end Sys2Proof.Machine
end

