-- ==== Sys2Proof/Machine/Window.lean ====
section
/-! DEFINITION. Machine/Window.lean: the register window and the stage-die register space (R71, R337, R371,
R390, R413, R428, R446), the capability registers (R18 to R20), and the timed-output unit (R243, R349). -/

namespace Sys2Proof.Machine

/-! ### Capability and readiness registers -/

/-- R18, R19: CAP0, its fields put together. -/
def State.cap0 (s : State) : Word :=
  let (dies, count, links, opt, part) : Nat × Nat × Nat × Nat × Nat := match s.variant with
    | .hx940 => (3, 128, 15, 7, 0x40)
    | .hx930 => (3, 96, 15, 7, 0x30)
    | .hx920 => (1, 64, 3, 0, 0x20)
  BitVec.ofNat 64 (dies + count * 2 ^ 2 + links * 2 ^ 10 + opt * 2 ^ 14 + 1 * 2 ^ 24 + part * 2 ^ 32)

/-- CAP0.SFU, CAP0.T12_RUNG and CAP0.FAILOVER (R19). -/
def State.hasSfu (s : State) : Bool := s.variant != .hx920
def State.hasT12 (s : State) : Bool := s.variant != .hx920
def State.hasFailover (s : State) : Bool := s.variant != .hx920

def cap1 : Word := 0x01010101

/-- R18: CAP2. -/
def State.cap2 (s : State) : Word :=
  BitVec.ofNat 64 (24 + s.dev.memGib.toNat * 2 ^ 8 + 32 * 2 ^ 16 + 16 * 2 ^ 24 + 12 * 2 ^ 32 + 6 * 2 ^ 40)

/-- R18: CAP3. -/
def cap3 : Word := BitVec.ofNat 64 (4 + 1700 * 2 ^ 4 + 16 * 2 ^ 16 + 96 * 2 ^ 24 + 512 * 2 ^ 32)

/-- R337: bit i tells whether logical core i of the die is ready. -/
def State.coreReadyMask (s : State) (d : Bool) : Word :=
  (List.range 64).foldl (fun w i =>
    match s.physicalOf d (BitVec.ofNat 6 i) with
    | some c => if (s.coreAt c).ready then w ||| ((1 : Word) <<< i) else w
    | none => w) 0

/-- R413, R414: bit p tells whether physical core p of the die is retired or withheld; a die that is not
fitted reads 0. -/
def State.wingsMask (s : State) (d : Bool) : Word :=
  if !s.dieFitted d then 0
  else
    (List.range 64).foldl (fun w i =>
      if (s.coreAt (coreId d (BitVec.ofNat 6 i))).wings then w ||| ((1 : Word) <<< i) else w) 0

/-- R413: map bytes 8j to 8j + 7. -/
def State.lcmapWord (s : State) (d : Bool) (j : Nat) : Word :=
  BitVec.ofNat 64 (leVal ((List.range 8).map fun i => (s.dieAt d).lcmap[8 * j + i]!))

/-! ### The error log registers (R371) -/

/-- R371, R373: errors of a core in the last 10 ms, saturating at 15. -/
def State.winOf (s : State) (c : CoreId) : Nat :=
  min 15 ((s.coreAt c).errTimes.filter fun t => decide (s.timeNs < t + 10000000)).length

def State.coreWin (s : State) : Word :=
  let c : CoreId := s.log.coreSel.extractLsb' 0 7
  let k := s.coreAt c
  BitVec.ofNat 64 (s.winOf c + 16 * boolNat k.suspect + 32 * boolNat k.wings + 65536 * k.ceCount.toNat)

/-- The four registers of an entry. -/
def LogEntry.reg (e : LogEntry) (j : Nat) : Word :=
  match j with
  | 0 => BitVec.ofNat 64 (e.src.toNat + e.sev.toNat * 2 ^ 8 + boolNat e.die * 2 ^ 10 + e.pcore.toNat * 2 ^ 11
      + e.ctx.toNat * 2 ^ 17 + e.unit.toNat * 2 ^ 24 + e.seq.toNat * 2 ^ 32 + e.run.toNat * 2 ^ 48)
  | 1 => e.time
  | 2 => e.addr
  | _ => BitVec.ofNat 64 e.synd.toNat

/-- R71, R371: the value of register 0x100 + k; none for a number the tables do not list. -/
def State.elogRead (s : State) (k : Nat) : Option Word :=
  match k with
  | 0 => some (BitVec.ofNat 64 (s.log.entries.length + 256 * boolNat s.log.ovf + 512 * boolNat s.log.cedrop
      + 65536 * s.log.nextSeq.toNat))
  | 1 => some s.log.ctl
  | 2 => some 0
  | 4 => some s.log.ce
  | 5 => some s.log.ue
  | 6 => some s.log.esc
  | 7 => some s.log.retired
  | 8 => some s.log.coreSel
  | 9 => some s.coreWin
  | _ =>
    if 0x40 ≤ k ∧ k ≤ 0xFF then
      some (match s.log.entries[(k - 0x40) / 4]? with
        | some e => e.reg ((k - 0x40) % 4)
        | none => 0)
    else none

/-- R371, R372: ELOG_POP removes entry 0 when its SEQ matches. -/
def State.elogPop (s : State) (seq : BitVec 16) : State :=
  match s.log.entries with
  | e :: rest => if e.seq = seq then { s with log := { s.log with entries := rest } } else s
  | [] => s

/-- R371, R446: a write to register 0x100 + k with byte lanes be. -/
def State.elogWrite (s : State) (k : Nat) (be : Byte) (v : Word) : State :=
  let ones := lanes 0 v be
  match k with
  | 0 => { s with log := { s.log with ovf := s.log.ovf && !ones.getLsbD 8
                                      cedrop := s.log.cedrop && !ones.getLsbD 9 } }
  | 1 => { s with log := { s.log with ctl := lanes s.log.ctl v be &&& 0x13F } }
  | 2 => s.elogPop (ones.extractLsb' 0 16)
  | 8 => { s with log := { s.log with coreSel := lanes s.log.coreSel v be &&& 0x7F } }
  | _ => s

/-! ### Command rings (R337) -/

def State.ringAt (s : State) (n : BitVec 2) : Ring := s.dev.rings[n.toNat]'n.isLt
def State.modRing (s : State) (n : BitVec 2) (f : Ring → Ring) : State :=
  s.modDev fun d => { d with rings := d.rings.set n.toNat (f (d.rings[n.toNat]'n.isLt)) n.isLt }

/-- R337: setting ENABLE to 1 while BUSY is 0 starts the ring empty. -/
def State.enableRing (s : State) (n : BitVec 2) : State :=
  s.modRing n fun r =>
    if r.busy then r
    else { r with enable := true, busy := true, tail := 0, head := 0, cqHead := 0, cqTail := 0, phase := true }

/-- A command of the ring has been started and is not completed. -/
def State.ringStarted (s : State) (n : BitVec 2) : Bool :=
  s.dev.started.any fun j => j.cmd.ring == n

/-- R337: ENABLE = 0: BUSY stays while a started entry is completed. -/
def State.disableRing (s : State) (n : BitVec 2) : State :=
  let b := s.ringStarted n
  s.modRing n fun r => if r.enable then { r with enable := false, busy := b } else r

/-- R337: the submission doorbell, ignored while a disable is in progress. -/
def State.doorbell (s : State) (n : BitVec 2) (v : Word) : State :=
  s.modRing n fun r =>
    if r.busy && !r.enable then r else { r with tail := v.toNat % 2 ^ r.size.toNat }

def State.ringSizeWrite (s : State) (n : BitVec 2) (v : Word) : State :=
  let r := s.ringAt n
  if r.enable then (if v.getLsbD 8 then s else s.disableRing n)
  else if r.busy then s
  else
    let s := s.modRing n fun r => { r with size := v.extractLsb' 0 4 }
    if v.getLsbD 8 then s.enableRing n else s

/-- The ring register j of ring n: 0 RING_BASE, 1 RING_SIZE, 2 SQ_TAIL, 3 CQ_HEAD. -/
def State.ringRead (s : State) (n : BitVec 2) (j : Nat) : Word :=
  let r := s.ringAt n
  match j with
  | 0 => r.base
  | 1 => BitVec.ofNat 64 (r.size.toNat + 256 * boolNat r.enable + 512 * boolNat r.busy)
  | 2 => 0
  | _ => r.cqHead

def State.ringWrite (s : State) (n : BitVec 2) (j : Nat) (be : Byte) (v : Word) : State :=
  let r := s.ringAt n
  match j with
  | 0 => if r.enable || r.busy then s
         else s.modRing n fun r => { r with base := lanes r.base v be &&& 0xFFFFFFFFFFC0 }
  | 1 => s.ringSizeWrite n (lanes (s.ringRead n 1) v be)
  | 2 => s.doorbell n (lanes 0 v be)
  | _ => s.modRing n fun r => if r.busy && !r.enable then r else { r with cqHead := lanes r.cqHead v be }

/-! ### The fault injector (R428) and breakpoints (R390) -/

/-- R428: ARM, MODE and the target fields are RW, FIRED is W1C. -/
def State.finjWrite (s : State) (be : Byte) (v : Word) : State :=
  s.modDev fun d =>
    let fired := d.finj &&& 2 &&& ~~~(lanes 0 v be)
    { d with finj := (lanes d.finj v be &&& 0x001F01FFFF8F7F05) ||| fired }

/-- R390: BPn keeps ADDR, PCORE, DIE, CTXMASK and EN. -/
def bpMask : Word := 0x8F7FFFFC

def State.bpRead (s : State) (n : BitVec 2) : Word := s.dev.bp[n.toNat]'n.isLt
def State.bpWrite (s : State) (n : BitVec 2) (be : Byte) (v : Word) : State :=
  s.modDev fun d => { d with bp := d.bp.set n.toNat (lanes (d.bp[n.toNat]'n.isLt) v be &&& bpMask) n.isLt }

/-! ### The timed-output unit (R243, R349) -/

/-- The levels after an entry drives its masked pins. -/
def drivePins (level : BitVec 16) (e : TOutEntry) : BitVec 16 := (level &&& ~~~e.mask) ||| (e.level &&& e.mask)

def satInc32 (x : BitVec 32) : BitVec 32 := if x = BitVec.allOnes 32 then x else x + 1

/-- Entries in order of time; among equal times in order of arrival (R243). -/
def insertOut (e : TOutEntry) : List TOutEntry → List TOutEntry
  | [] => [e]
  | f :: rest => if e.time.toNat < f.time.toNat then e :: f :: rest else f :: insertOut e rest

/-- R243: the held entries whose time TIME has reached drive their pins, in order. -/
def State.toutFireAll (s : State) : State :=
  let due := s.dev.toEnts.filter fun e => decide (e.time.toNat ≤ s.timeNs)
  s.modDev fun d => { d with
    toLevel := due.foldl drivePins d.toLevel, toEnts := d.toEnts.filter fun e => !decide (e.time.toNat ≤ s.timeNs) }

/-- R349: an entry reaches the unit, which has driven those due by then: dropped when 256 are held, driven at once and counted when
its time has passed, held otherwise. -/
def State.toutArrive (s : State) (e : TOutEntry) : State :=
  let s := s.toutFireAll
  if 256 ≤ s.dev.toEnts.length then
    (s.modDev fun d => { d with toDrop := satInc32 d.toDrop }).logEvent
      { stageEntry 0x2E 2 e.time with synd := e.mask }
  else if e.time.toNat < s.timeNs then
    s.modDev fun d => { d with toLevel := drivePins d.toLevel e, toLate := satInc32 d.toLate }
  else s.modDev fun d => { d with toEnts := insertOut e d.toEnts }

/-- R243: TIME has reached the first entry. -/
def State.toutDue (s : State) : Bool :=
  match s.dev.toEnts with
  | e :: _ => decide (e.time.toNat ≤ s.timeNs)
  | [] => false

/-- R243: the first entry whose time TIME has reached drives its pins. -/
def State.toutFire (s : State) : State :=
  match s.dev.toEnts with
  | e :: rest =>
    if e.time.toNat ≤ s.timeNs then
      s.modDev fun d => { d with toLevel := drivePins d.toLevel e, toEnts := rest }
    else s
  | [] => s

/-! ### The window (R71, R337, R446) -/

/-- The register at a multiple of 8; a reserved offset reads zero. -/
def State.windowReg (s : State) (off : Nat) : Word :=
  if off = 0x0000 then s.cap0
  else if off = 0x0008 then cap1
  else if off = 0x0010 then s.cap2
  else if off = 0x0018 then cap3
  else if off = 0x0020 then s.dev.funcReady
  else if 0x1000 ≤ off ∧ off ≤ 0x17F8 then (s.elogRead ((off - 0x1000) / 8)).getD 0
  else if off = 0x2000 then s.coreReadyMask false
  else if off = 0x2008 then s.coreReadyMask true
  else if 0x2100 ≤ off ∧ off < 0x2180 then s.ringRead (BitVec.ofNat 2 ((off - 0x2100) / 32)) (off / 8 % 4)
  else if off = 0x2200 then BitVec.ofNat 64 s.dev.toLate.toNat
  else if off = 0x2208 then BitVec.ofNat 64 s.dev.toDrop.toNat
  else if off = 0x2210 then BitVec.ofNat 64 s.dev.toLevel.toNat
  else if off = 0x2218 then BitVec.ofNat 64 s.dev.toEnable.toNat
  else if off = 0x2300 then s.dev.temp
  else if 0x2400 ≤ off ∧ off < 0x2420 then s.bpRead (BitVec.ofNat 2 ((off - 0x2400) / 8))
  else if 0x2500 ≤ off ∧ off < 0x2540 then s.lcmapWord false ((off - 0x2500) / 8)
  else if 0x2540 ≤ off ∧ off < 0x2580 then s.lcmapWord true ((off - 0x2540) / 8)
  else if off = 0x2580 then s.wingsMask false
  else if off = 0x2588 then s.wingsMask true
  else if off = 0x2600 then s.dev.finj
  else 0

/-- R446: a write to the register at a multiple of 8 with byte lanes be. -/
def State.windowWrite (s : State) (off : Nat) (be : Byte) (v : Word) : State :=
  let ones := lanes 0 v be
  if 0x1000 ≤ off ∧ off ≤ 0x17F8 then s.elogWrite ((off - 0x1000) / 8) be v
  else if 0x2100 ≤ off ∧ off < 0x2180 then
    s.ringWrite (BitVec.ofNat 2 ((off - 0x2100) / 32)) (off / 8 % 4) be v
  else if off = 0x2200 then s.modDev fun d => { d with toLate := d.toLate &&& ~~~(ones.extractLsb' 0 32) }
  else if off = 0x2208 then s.modDev fun d => { d with toDrop := d.toDrop &&& ~~~(ones.extractLsb' 0 32) }
  else if off = 0x2218 then
    s.modDev fun d => { d with toEnable := (lanes (BitVec.ofNat 64 d.toEnable.toNat) v be).extractLsb' 0 16 }
  else if 0x2400 ≤ off ∧ off < 0x2420 then s.bpWrite (BitVec.ofNat 2 ((off - 0x2400) / 8)) be v
  else if off = 0x2600 then s.finjWrite be v
  else s

/-- The byte lanes of an n-byte access at offset off within a register. -/
def laneMask (off n : Nat) : Byte := BitVec.ofNat 8 ((2 ^ n - 1) * 2 ^ (off % 8))

/-- R337, R446: a core's store of n bytes to the stage-die register space. -/
def State.regsStore (s : State) (off n : Nat) (v : Word) : State :=
  s.windowWrite (off / 8 * 8) (laneMask off n) (v <<< (8 * (off % 8)))

/-- R446: one byte of the stage-die register space. -/
def State.regsByte (s : State) (off : Nat) : Byte :=
  BitVec.ofNat 8 ((s.windowReg (off / 8 * 8)).toNat / 2 ^ (8 * (off % 8)))

end Sys2Proof.Machine
end

