-- ==== Sys2Proof/Machine/Region.lean ====
section
/-! DEFINITION. Machine/Region.lean: regions: start, rollback, and the errors, races and overflows that cause one (R37 to R42,
R276, R277, R309, R368 to R378, R380, R381, R398 to R401). -/

namespace Sys2Proof.Machine

/-! ### Start of a region (R38) -/

/-- R38: the checkpoint is taken and the region is open. -/
def Ctx.openRegion (v : Ctx) : Ctx :=
  { v with ckpt := v.r, opened := true, region := v.region + 1, ckReslot := v.reslot, rsDue := false }

/-- R304, R380: a region whose commit is confirmed; no rollback-class event concerns it any more. -/
def Ctx.sealed (v : Ctx) : Bool := v.cm.phase == .merge || v.cm.phase == .ordered || v.cm.phase == .done

/-- A region past step 2 of its commit takes no detector report any more (R369, R370). -/
def Ctx.pastHorizon (v : Ctx) : Bool := v.cm.phase == .gather || v.sealed

/-! ### Release (R42, R305, R309, R399) -/

/-- R42, R305: the context's pins and records are released. -/
def State.releasePins (s : State) (c : CoreId) (x : CtxId) : State :=
  ((s.ctxAt c x).recs.map (·.1)).foldl (fun s l => s.dropPin c x l) s

/-- R303, R307: the end of a request: DONE to the home, or PDONE to the arbiter; an untracked line has no home that waits. -/
def State.endRequest (s : State) (o : OutReq) : State :=
  let s := s.dropOut o.req.rq o.req.line
  if o.use == .untracked then s
  else s.sendMsg (if o.converted then .pdone o.req.line o.req.rq else .done o.req.line o.req.rq)

/-- R309: lent tokens that went home with those of a committer which rolled back are owed to their lenders no more; the entries of
these ask for a token again, since their records stay pinned (R40; DEDUCED, log 38). -/
def State.forgiveLent (s : State) (line : Nat) (lent : List CoreId) : State :=
  if lent.isEmpty then s
  else s.modLine line fun l =>
    { l with rats := l.rats.filter fun d => !(lent.contains d && l.lent.contains d), lent := l.lent.filter fun d => !lent.contains d }

/-- R309: tokens that a core gathered for a line leave it: those of the winner's active persistent request go there, lent ones
still owed to their lenders; all go home otherwise (log 38). -/
def State.releaseGath (s : State) (c : CoreId) (rq : Rq) (line : Nat) : State :=
  let g := (s.lineAt line).gathOf c
  let own : Hold := { g.hold with count := g.hold.count - g.lent.length }
  let s := s.modLine line fun l => l.setGath c ⟨Hold.none, []⟩
  let s := match (s.activeOf line).filter fun a => a.req.rq != rq with
    | some a => (s.lendOn line a.req.rq g.lent).sendTok line a.req.rq own (asksData a.req.kind) none
    | none => (s.forgiveLent line g.lent).sendHome line g.hold
  s.lastToken c line

/-- R307, R309: a rollback withdraws the requester's requests: DONE lets the home go on, PDONE frees the arbiter; the tokens
they gathered leave, unless another context of the core gathers the line too or has confirmed a commit of it. -/
def State.withdraw (s : State) (c : CoreId) (x : CtxId) : State :=
  let rq := rqOf c x
  let mine := s.coh.outs.filter fun o => o.req.rq == rq && o.use != .home
  let s := mine.foldl (fun s o => s.endRequest o) s
  let s := s.unwait fun r => r.rq == rq && mine.any fun o => o.req.line == r.line
  mine.foldl (fun s o => if s.keepsLine c o.req.line then s else s.releaseGath c rq o.req.line) s

/-- R399: at the end of a guarded attempt the lines it acquired and did not write are given back with PDONE. -/
def State.releaseGuard (s : State) (c : CoreId) (x : CtxId) : State :=
  let ls := (s.ctxAt c x).guardLines
  let s := s.modCtx c x fun v => { v with guardLines := [] }
  ls.foldl (fun s line =>
    match s.outOf (rqOf c x) line with
    | none => s
    | some o =>
      let g := (s.lineAt line).gathOf c
      let s := s.endRequest o
      if s.keepsLine c line then s
      else
        let s := (s.modLine line fun l => l.setGath c ⟨Hold.none, []⟩).returnLent line g.lent
        s.placeCache c line { g.hold with count := g.hold.count - g.lent.length }) s

/-! ### Commands of the engines (R205, R208, R221) -/

/-- A product command. -/
def MatOp.isProduct : MatOp → Bool
  | .i8 | .bf | .t6 | .t8 | .t12 | .ad => true
  | _ => false

/-- R212, R221: cycles the unit is occupied, up to the rung an MMA.AD has reached. -/
def MatCmd.occ (m : MatCmd) : Nat :=
  if m.op.isProduct ∧ m.mx.mlim = 0 then 1
  else
    match m.op with
    | .i8 | .t8 => 32
    | .t6 => 16
    | .bf | .t12 => 64
    | .ad => if m.rung = 0 then 16 else if m.rung = 1 then 48 else 112
    | .zero => 2
    | .finI | .finF => 16
    | .rd _ _ _ _ => 1
    | .cvt _ => 16

/-- R221: cycles from the last occupied cycle to the landing. -/
def MatCmd.tail (m : MatCmd) : Nat :=
  if m.op.isProduct ∧ m.mx.mlim = 0 then 1
  else
    match m.op with
    | .zero | .rd _ _ _ _ => 1
    | .finI | .finF => 4
    | _ => 6

/-- R208: the last occupied cycle of a command that has begun. -/
def MatCmd.fin (m : MatCmd) : Nat := m.begun.getD m.issue + m.occ

/-- The last occupied cycle is known: an MMA.AD has its verdict (R214). -/
def MatCmd.closed (m : MatCmd) : Bool := m.op != .ad || m.decided

/-- R42, R208: cancels the matrix commands of a context; those behind a command that the unit was running start from now on. -/
def Core.cancelMat (k : Core) (x : CtxId) : Core :=
  let now (m : MatCmd) : Nat := if m.closed then min m.fin k.cycle else k.cycle
  { k with
    matQ := (k.matQ.filter fun m => m.x != x).map fun m => if m.begun.any fun b => decide (k.cycle ≤ b) then { m with begun := none } else m
    mFree := ((k.matQ.filter fun m => m.x == x && m.begun.any fun b => decide (b < k.cycle)).map now).foldl max k.mFree }

/-! ### Rollback (R42, R380, R381) -/

/-- R42, R68, R381: the state of the context after a rollback: the checkpoint, no gate, no records, no
command of the region outstanding, every slab full; the region starts again with its first bundle. A breakpoint that
was to halt the context after its commit recurs (R388). -/
def Ctx.rolledBack (v : Ctx) : Ctx :=
  { v with
    r := v.ckpt, opened := false, region := v.region + 1
    gate := [], scalarLines := [], recs := [], touts := [], soStores := [], tpfDone := 0, tldmSubs := [], guardLines := []
    slabEmpty := [], pend := v.pend.filter fun p => p.region != v.region
    cm := CommitState.idle, after := .none, infl := none, reslot := v.ckReslot, rsDue := false
    waitCast := none, waitWindow := none, predAge := Vector.replicate 16 1, skips := 0
    tr := if v.after = .halt then { v.tr with tcause := v.tr.tcause &&& ~~~0x20000 } else v.tr }

/-- R205: the commands that had not begun follow one another from this cycle on, behind those that have. -/
def requeue (now : Nat) : Nat → List TileCmd → List TileCmd
  | _, [] => []
  | prev, m :: rest =>
    if m.occEnd - m.occ < now then m :: requeue now (max prev m.occEnd) rest
    else
      let fin := prev + m.occ
      { m with occEnd := fin, due := m.due + fin - m.occEnd } :: requeue now fin rest

/-- R42, R205: cancels the engine commands of the context; the commands behind them move up. A cancelled special-function command
keeps its entry and its occupancy until its time (DESIGN CHOICE, log 59). -/
def Core.cancel (k : Core) (x : CtxId) : Core :=
  let tiles := requeue k.cycle k.cycle (k.tileQ.filter fun m => m.x != x)
  { k.cancelMat x with tileQ := tiles, tFree := tiles.foldl (fun n m => max n m.occEnd) k.cycle }

/-- R42: the open region of the context is discarded. With none open, only what an X operation has asked for is given back. -/
def State.rollback (s : State) (c : CoreId) (x : CtxId) : State :=
  let s := (s.withdraw c x).releasePins c x
  if (s.ctxAt c x).opened then (s.modCore c fun k => k.cancel x).modCtx c x Ctx.rolledBack else s

/-! ### Races (R276, R398) and overflow (R39, R400, R401) -/

/-- R379, R383: a race or an overflow meets TSPAWN's read of its record, which raises its exception at the operation. -/
def State.hitRead (s : State) (c : CoreId) (x : CtxId) (ovf : Bool) : State :=
  (s.rollback c x).modCtx c x fun v => { v with readHit := some ovf }

/-- R276, R398, R399: the memory-model exception; at the fourth the next attempt runs guarded. No such event concerns a confirmed
commit any more (R380). -/
def State.raceRollback (s : State) (c : CoreId) (x : CtxId) : State :=
  if (s.ctxAt c x).cm.phase == .merge || (s.ctxAt c x).cm.phase == .ordered then s
  else if !(s.ctxAt c x).opened then s.hitRead c x false
  else
  let pc := (s.ctxAt c x).ckpt.pc
  let s := s.rollback c x
  let n := (s.ctxAt c x).race + 1
  let enter := n == 4
  let s := s.modCtx c x fun v => { v with race := n, guarded := v.guarded || decide (4 ≤ n) }
  if enter then s.logEvent (coreEntry 0x25 1 c x (s.ctxAt c x).run (pc.setWidth 64)) else s

/-- R276: the record of context p overlaps the mask, and its region is not confirmed. -/
def State.raced (s : State) (p : CoreId × CtxId) (line : Nat) (mask : BitVec 64) : Bool :=
  match assoc (s.ctxAt p.1 p.2).recs line with
  | some m => m &&& mask ≠ 0 && (s.ctxAt p.1 p.2).cm.phase != .merge
  | none => false

/-- R276, R304: every context other than (c, x) whose record of the line overlaps the mask takes the
memory-model exception, when its region is not confirmed. -/
def State.raceOthers (s : State) (c : CoreId) (x : CtxId) (line : Nat) (mask : BitVec 64) : State :=
  allContexts.foldl (fun s p =>
    if p.1 == c && p.2 == x then s else if s.raced p line mask then s.raceRollback p.1 p.2 else s) s

/-- R276, R288: an outside write: every record that overlaps raises. -/
def State.raceAll (s : State) (line : Nat) (mask : BitVec 64) : State :=
  allContexts.foldl (fun s p => if s.raced p line mask then s.raceRollback p.1 p.2 else s) s

/-- R400, R401: an overflow: the next attempt runs solo; in a solo attempt the task enters FAILED. -/
def State.overflow (s : State) (c : CoreId) (x : CtxId) : State :=
  let v := s.ctxAt c x
  if !v.opened then s.hitRead c x true
  else
  let s := s.rollback c x
  if v.solo then (s.failCtx c x).logEvent (coreEntry 0x26 2 c x v.run (v.ckpt.pc.setWidth 64))
  else s.modCtx c x fun v => { v with solo := true }

/-- Gate bytes and access-table entries that the contexts of a core hold (R39, R298). -/
def Core.gateUsed (k : Core) : Nat := (k.ctxs.toList.map Ctx.gateCount).sum
def Core.ratUsed (k : Core) : Nat :=
  (distinct (k.ctxs.toList.flatMap fun v => v.recs.map (·.1))).length

/-- R39: a context that holds more than its guaranteed amount of gate bytes, or of entries, as far as each is asked about. -/
def Ctx.borrows (v : Ctx) (gate rat : Bool) : Bool :=
  (gate && decide (Config.gateCtx < v.gateCount)) || (rat && decide (Config.ratCtx < v.recs.length))

/-- R39: another context that borrows and cannot give its space up any more before its step 5. -/
def Core.sealedBorrower (k : Core) (x : CtxId) (gate rat : Bool) : Bool :=
  allCtxs.any fun y => y != x && (k.ctxAt y).borrows gate rat && (k.ctxAt y).sealed

/-- R39, R400: another context runs its region solo, which holds the whole gate and every entry. -/
def Core.soloElse (k : Core) (x : CtxId) : Bool :=
  allCtxs.any fun y => y != x && (k.ctxAt y).solo && (k.ctxAt y).opened

/-- R39: the gate bytes and entries that an access of context x adds. -/
def State.spaceNeeds (s : State) (c : CoreId) (x : CtxId) (store : Bool) (keys : List (Nat × PageKind)) : Nat × Nat :=
  let v := s.ctxAt c x
  let new := if store then (distinct (keys.map (·.1))).filter fun a => !v.gate.any fun e => e.key == a else []
  (new.length, ((trackedLines keys).filter fun l => !(s.coreAt c).ctxs.toList.any fun u => (assoc u.recs l).isSome).length)

/-- R39: an access within the guaranteed amounts of context x waits for step 5 of a confirmed borrower of what it needs; any access
that takes gate or entries waits for the solo region of another context (R400). -/
def State.spaceWaits (s : State) (c : CoreId) (x : CtxId) (store : Bool) (keys : List (Nat × PageKind)) : Bool :=
  let k := s.coreAt c
  if k.soloElse x then
    let (g, r) := s.spaceNeeds c x store keys
    decide (0 < g + r)
  else if !k.sealedBorrower x true true then false
  else
    let (g, r) := s.spaceNeeds c x store keys
    let gate := decide (0 < g) && decide ((k.ctxAt x).gateCount + g ≤ Config.gateCtx) && decide (Config.gateCore < k.gateUsed + g)
    let rat := decide (0 < r) && decide ((k.ctxAt x).recs.length + r ≤ Config.ratCtx) && decide (Config.ratCore < k.ratUsed + r)
    (gate && k.sealedBorrower x true false) || (rat && k.sealedBorrower x false true)

/-- R39: the space rule after an access of context x: too many gate bytes, or entries, in the core make those that borrow of them
and are not confirmed overflow when x keeps to its guaranteed amount, and x itself otherwise. -/
def State.spaceRule (s : State) (c : CoreId) (x : CtxId) : State :=
  let k := s.coreAt c
  let gate := decide (Config.gateCore < k.gateUsed)
  let rat := decide (Config.ratCore < k.ratUsed)
  if !gate && !rat then s
  else if (k.ctxAt x).borrows gate rat then s.overflow c x
  else
    allCtxs.foldl (fun s y =>
      if y != x && (s.ctxAt c y).borrows gate rat && !(s.ctxAt c y).solo && !(s.ctxAt c y).sealed then s.overflow c y else s) s

/-- R400: another context of the core is to run solo, or does, and context x waits for it at its next pre-emption point; the lower
numbered one goes first where both are. -/
def Core.soloHolds (k : Core) (x : CtxId) : Bool :=
  allCtxs.any fun y => y != x && (k.ctxAt y).solo && (!(k.ctxAt x).solo || decide (y.toNat < x.toNat))

/-- R400: a context that has no region open waits while another one of its core is solo; a solo one waits while another one still
holds gate bytes or entries. -/
def Core.soloBlocks (k : Core) (x : CtxId) : Bool :=
  !(k.ctxAt x).opened && (k.soloHolds x || allCtxs.any fun y => y != x &&
    ((k.ctxAt x).solo && (!(k.ctxAt y).gate.isEmpty || !(k.ctxAt y).recs.isEmpty)))

/-! ### Detector rollbacks (R369, R373, R374, R377) -/

/-- R373, R374: the core becomes a lasting-fault suspect, unless it already is one. -/
def State.makeSuspect (s : State) (c : CoreId) (x : CtxId) (run : Nat) (addr : Word) : State :=
  if (s.coreAt c).suspect then s
  else (s.modCore c fun k => { k with suspect := true }).logEvent (coreEntry 0x21 2 c x run addr)

/-- R371, R373: the errors of a core in the window of 10 ms that ends now, 15 of them at most. -/
def State.recentErrors (s : State) (c : CoreId) : List Nat :=
  (s.coreAt c).errTimes.filter fun t => decide (s.timeNs < t + 10000000)

/-- R373: an error of a core: the window of 10 ms holds its TIME; with eight in it the core becomes a suspect. -/
def State.countError (s : State) (c : CoreId) (x : CtxId) (run : Nat) (addr : Word) : State :=
  let ts := ((s.recentErrors c) ++ [s.timeNs]).reverse.take 15 |>.reverse
  let s := s.modCore c fun k => { k with errTimes := ts }
  let s := { s with log := { s.log with ue := satInc s.log.ue } }
  if 8 ≤ ts.length then s.makeSuspect c x run addr else s

/-- R374, R375: a task with RESTART becomes READY again from its original record, awaiting no future any more (R320); one of a timed
core keeps its age, since its next segment is its own. -/
def State.restartTask (s : State) (id : Nat) : State :=
  let (a, s) := s.takeAge
  let keeps (t : Task) : Bool := t.timedSeg || (s.queueAt t.qdie t.queue).timed
  (s.forgetWaiter id).modTask id fun t => { t with st := .ready, age := if keeps t then t.age else a, castOvr := false, loc := none, saved := none, infl := none, why := .none, asked := [], tried := [] }

/-- R374: the region escalates: the task leaves the context, restarted elsewhere or FAILED. -/
def State.escalate (s : State) (c : CoreId) (x : CtxId) (addr : Word) : State :=
  let s := match (s.ctxAt c x).task.bind s.taskAt with
    | some t =>
      if t.tr.flags.getLsbD 0 then
        (((s.freeCtx c x).restartTask t.id).modTask t.id fun t =>
          { t with notOn := if t.timedSeg then t.notOn else t.notOn ++ [c] }).endSegment c
      else s.failCtx c x
    | none => s.freeCtx c x
  let s := { s with log := { s.log with esc := satInc s.log.esc } }
  let s := s.logEvent (coreEntry 0x20 2 c x 3 addr)
  s.makeSuspect c x 3 addr

/-- R374, R377: what follows a detector rollback that brought the run count of context x to run: the escalation at 3, or the
entry of a replay. -/
def State.replayOrEscalate (s : State) (e : LogEntry) (c : CoreId) (x : CtxId) (run : Nat) : State :=
  if 3 ≤ run then s.escalate c x e.addr else s.logEvent { e with sev := 1, run := BitVec.ofNat 4 run }

/-- R369, R373, R374, R377, R391: an uncorrected report that concerns a region attempt of a context: its open region rolls back. An
attempt that a trapped rollback has ended is not rolled back again, but the report counts; where a report has ended it, the next one
is only logged. -/
def State.detectRollback (s : State) (e : LogEntry) (c : CoreId) (x : CtxId) (attempt : Nat) : State :=
  let v := s.ctxAt c x
  let hits : Bool := decide (attempt = v.region) && v.opened && !v.pastHorizon
  if hits || v.trapOf == some attempt then
    let run := v.run + 1
    let s := (if hits then s.rollback c x else s).modCtx c x fun v => { v with run := run, trapOf := if hits then v.trapOf else none }
    (s.replayOrEscalate e c x run).countError c x run e.addr
  else s.logEvent { e with sev := 1, run := BitVec.ofNat 4 v.run }

/-- R402, R403, R373: a region that consumes a poisoned line rolls back. -/
def State.poisonHit (s : State) (c : CoreId) (x : CtxId) (line : Nat) : State :=
  s.detectRollback (coreEntry 0x0D 1 c x 0 (BitVec.ofNat 64 (line * 64))) c x (s.ctxAt c x).region

end Sys2Proof.Machine
end

