-- ==== Sys2Proof/Machine/Home.lean ====
section
/-! DEFINITION. Machine/Home.lean: the home of a line: the requests it serves (R302, R303), and the operations it performs for
the host, other devices and strongly-ordered accesses (R259, R283, R288, R289, R292, R299, R403). -/

namespace Sys2Proof.Machine

/-! ### Requests at the home (R299, R302) -/

/-- R404: the recreation request for a line. -/
def recreation (line : Nat) : Req := ⟨line, 514, .rdx, BitVec.allOnes 64, false⟩

/-- R303: a request that its requester still waits for, not converted. -/
def State.stillAsked (s : State) (r : Req) : Bool :=
  match s.outOf r.rq r.line with
  | some o => !o.converted
  | none => false

/-- R427: a line that the home has to check after a failover: tokens of it are not at the home, and it has not been
checked. -/
def State.needsSweep (s : State) (line : Nat) : Bool :=
  ((s.dieAt false).failed || (s.dieAt true).failed) && !s.coh.epochChecked.contains line
    && decide ((s.lineAt line).home.count < Config.tokens)

/-- R307: a request joins the arbiter's table once. -/
def State.persistAsk (s : State) (r : Req) : State :=
  if (s.coh.arb.waiting.any fun q => q.rq == r.rq && q.line == r.line)
      || (s.coh.arb.active.any fun a => a.req.rq == r.rq && a.req.line == r.line) then s
  else (s.modCoh fun h => { h with arb := { h.arb with waiting := h.arb.waiting ++ [r] } }).activate r.line

/-- R404: a recreation of the line's tokens waits or is active. -/
def State.recreating (s : State) (line : Nat) : Bool :=
  (s.coh.arb.waiting.any fun r => decide (r.rq.toNat = 514) && r.line == line)
    || s.coh.arb.active.any fun a => decide (a.req.rq.toNat = 514) && a.req.line == line

/-- R404: the home asks for the recreation of a line's tokens. -/
def State.askRecreation (s : State) (line : Nat) : State :=
  (s.modCoh fun h => { h with epochChecked := if h.epochChecked.contains line then h.epochChecked
    else h.epochChecked ++ [line] }).persistAsk (recreation line)

/-- R302: the home sends its tokens h of a line to a core's request, keeps the rest, and hints at the requester's die. -/
def State.homeSends (s : State) (line : Nat) (rq : Rq) (h keep : Hold) (asked : Bool) : State :=
  if h.count = 0 then s
  else ((s.modLine line fun l => l.setHome keep).sendTok line rq h asked none).modHint line fun t =>
    t.sent (dieOf (rqCore rq)) h.owner

/-- R302: the home sends its own tokens to a core's request, and FWD to the slices of the hinted dies. -/
def State.startGather (s : State) (r : Req) : State :=
  let l := s.lineAt r.line
  let ds := s.hintedDies r.line
  let s := s.setLine r.line { l with st := .gather, serving := some r }
  let s := if s.goesHome r.rq r.line then s else s.homeSends r.line r.rq l.home Hold.none (asksData r.kind)
  ds.foldl (fun s d => s.sendMsg (.fwd r (.slice d))) s

/-- R302: the home serves one request of a line in IDLE: RD alone when it holds the owner token and at least two
tokens, FORWARD when the owner token is in a cache. -/
def State.homeServe (s : State) (r : Req) : State :=
  let s := s.dirTouch r.line
  let l := s.lineAt r.line
  match r.kind with
  | .rd =>
    if l.home.owner && decide (2 ≤ l.home.count) then
      s.homeSends r.line r.rq { Hold.single with valid := true } { l.home with count := l.home.count - 1 } true
    else
      match (s.hintOf r.line).bind fun h => if l.home.owner then none else h.owner with
      | some d => (s.setLine r.line { l with st := .forward, serving := some r }).sendMsg (.fwd r (.slice d))
      | none => s.startGather r
  | _ => s.startGather r

/-- R302: a line whose waiting requests can be served. -/
def State.homeFree (s : State) (line : Nat) : Bool :=
  let l := s.lineAt line
  l.st == .idle && !l.wbPend && (s.activeOf line).isNone

/-- R302: waiting requests are served in arrival order while the home is idle for the line. -/
def State.homeServeAll (s : State) (line : Nat) : Nat → State
  | 0 => s
  | n + 1 =>
    if !s.homeFree line then s
    else
      match (s.lineAt line).waiting with
      | [] => s
      | r :: rest =>
        if s.needsSweep line then s.askRecreation line
        else
          let s := s.modLine line fun l => { l with waiting := rest }
          (if s.stillAsked r then s.homeServe r else s).homeServeAll line n

def State.homeNext (s : State) (line : Nat) : State := s.homeServeAll line ((s.lineAt line).waiting.length + 1)

/-- R302, R303: a request reaches the home; an UPG whose CNV came before it is an RDX. -/
def State.homeTake (s : State) (r : Req) : State :=
  (s.modLine r.line fun l =>
    { l with waiting := l.waiting ++ [if l.cnv.contains r.rq then { r with kind := .rdx } else r], cnv := l.cnv.erase r.rq }).homeNext
      r.line

/-! ### Atomic operations (R228, R229) -/

/-- R229: the new value of an AMO on n bytes. -/
def amoNew (op : AmoOp) (n old x : Nat) : Nat :=
  match op with
  | .add => (old + x) % 2 ^ (8 * n)
  | .and => old &&& x
  | .or => old ||| x
  | .xor => old ^^^ x
  | .min => if signedOf (8 * n) old ≤ signedOf (8 * n) x then old else x
  | .max => if signedOf (8 * n) old ≤ signedOf (8 * n) x then x else old
  | .minu => min old x
  | .maxu => max old x
  | .swap => x

/-- R229: SIZE 3 has 8 bytes, SIZE 2 has 4. -/
def atomicBytes (wide : Bool) : Nat := if wide then 8 else 4

/-- R229: the new value of an AMO, or of a CAS that expects x and stores y. -/
def atomicNew (op : Option AmoOp) (n old x y : Nat) : Nat :=
  match op with
  | some op => amoNew op n old (x % 2 ^ (8 * n))
  | none => if old = x % 2 ^ (8 * n) then y % 2 ^ (8 * n) else old

/-! ### Operations of the home (R259, R283, R288, R289, R299, R403) -/

/-- R289, R283: the byte mask of an operation. -/
def HomeOp.mask : HomeOp → BitVec 64
  | .write m _ => m
  | .atomic off wide _ _ _ => maskOf 0 ((List.range (atomicBytes wide)).map fun i => off % 64 + i)
  | .read => 0

/-- The bytes of a line that a mask selects, over those of memory. -/
def mergeLine (m : List Host.Cell) (line : Nat) (mask : BitVec 64) (data : BitVec 512) : List Host.Cell :=
  (List.range 64).foldl (fun m i =>
    if mask.getLsbD i then cellSet m (line * 64 + i) (data.extractLsb' (8 * i) 8) else m) m

/-- What an operation leaves in memory. -/
def HomeOp.apply (o : HomeOp) (m : List Host.Cell) (line : Nat) : List Host.Cell :=
  match o with
  | .write k data => mergeLine m line k data
  | .atomic off wide op x y =>
    let n := atomicBytes wide
    let a := line * 64 + off % 64
    cellWrite m a (leBytes n (atomicNew op n (cellNat m a n) x.toNat y.toNat))
  | .read => m

/-- R229, R288, R289, R403: the operation on memory; a write that leaves a part of a poisoned line is discarded. The home's
copy is current then, and the line's poison gone. -/
def State.homePerform (s : State) (line : Nat) (o : HomeOp) : State :=
  let mask := o.mask
  if s.coh.poison.contains line && mask != BitVec.allOnes 64 then s
  else
    let s := (s.raceAll line mask).modLine line fun l => { l with stale := none }
    let s := s.modCoh fun h => { h with poison := h.poison.filter fun l => l != line }
    { s with mem := o.apply s.mem line }

/-- R283, R289, R403: what goes back to the requester: the line as it stood before the operation to another device, which is
told that a write or an atomic has been applied (R408), the old value of an atomic to a context unless its line is poisoned, the
line to the host, with its poison indication, and an error to the host whose write of a part of a poisoned line is discarded. -/
def State.homeAnswer (s : State) (w : HomeWrite) : State :=
  match w.op, w.src with
  | .write _ _, some r => s.modDev fun d => { d with acks := d.acks ++ [(r.dev, r.seq)] }
  | .atomic _ _ _ _ _, some r =>
    s.modDev fun d => { d with
      acks := d.acks ++ [(r.dev, r.seq)]
      reads := d.reads ++ [⟨r.dev, r.tline, some (s.lineData w.line), s.coh.poison.contains w.line⟩] }
  | .read, some r =>
    s.modDev fun d => { d with reads := d.reads ++ [⟨r.dev, r.tline, some (s.lineData w.line), s.coh.poison.contains w.line⟩] }
  | .atomic off wide _ _ _, none =>
    if rqIsCore w.rq && !s.coh.poison.contains w.line then
      s.modCtx (rqCore w.rq) (rqCtx w.rq) fun v =>
        { v with homeAns := some (BitVec.ofNat 64 (cellNat s.mem (w.line * 64 + off % 64) (atomicBytes wide))) }
    else s
  | .write mask _, none =>
    if w.rq.toNat = 512 && s.coh.poison.contains w.line && mask != BitVec.allOnes 64 then
      s.modDev fun d => { d with hostErrors := d.hostErrors ++ [.mem] }
    else s
  | .read, none =>
    s.modDev fun d => { d with hostReads := d.hostReads ++ [(w.line, s.lineData w.line, s.coh.poison.contains w.line)] }

/-- R292: operations of one device are performed in the order in which they came; others wait only for one of the same requester
number and line. -/
def HomeWrite.before (w v : HomeWrite) : Bool :=
  (w.rq == v.rq && w.line == v.line) || (match w.src, v.src with
    | some a, some b => a.dev == b.dev
    | _, _ => false)

/-- The operations of a list that wait for no earlier one. -/
def homeHeads : List HomeWrite → List HomeWrite
  | [] => []
  | w :: rest => w :: (homeHeads rest).filter fun v => !w.before v

/-- The first operation that waits for the line under the requester number. -/
def State.homeOpOf (s : State) (rq : Rq) (line : Nat) : Option HomeWrite :=
  s.coh.homeOps.find? fun o => o.rq == rq && o.line == line

def State.dropHomeOp (s : State) (w : HomeWrite) : State :=
  s.modCoh fun h => { h with homeOps := eraseFirst (fun p => p == w) h.homeOps }

/-- R299, R305: once the home holds every token for an operation, it is performed, lent tokens return and the request
ends. One of a context's removes the untracked copies of its line as a commit does (R259, R260). -/
def State.homeCommit (s : State) (rq : Rq) (line : Nat) : State :=
  match s.homeOpOf rq line, s.outOf rq line with
  | some w, some q =>
    if (s.lineAt line).home.count ≠ Config.tokens then s
    else
      let lent := (s.lineAt line).homeLent
      let s := ((s.homeAnswer w).homePerform line w.op).dropHomeOp w
      let s := if rqIsCore rq && w.src.isNone then s.dropUntracked (rqCore rq) line else s
      let s := s.modLine line fun l =>
        { l with home := { l.home with count := l.home.count - lent.length }, homeLent := [] }
      (s.returnLent line lent).endRequest q
  | _, _ => s

/-- The home looks at its tokens again for the request it serves or the one that is active. -/
def State.homeCheck (s : State) (line : Nat) : State :=
  match s.activeOf line, (s.lineAt line).serving with
  | some a, _ => if s.goesHome a.req.rq line then s.homeCommit a.req.rq line else s
  | none, some r => if s.goesHome r.rq line then s.homeCommit r.rq line else s
  | none, none => s

/-- R289, R299: an operation whose turn it is: a read is served at once (R293), unless it is the first of its line after a
failover (R427); any other asks for the tokens of its line. -/
def State.homeStart (s : State) (w : HomeWrite) : State :=
  match w.op with
  | .read => if s.needsSweep w.line then s.askRecreation w.line else (s.homeAnswer w).dropHomeOp w
  | o =>
    let r : Req := ⟨w.line, w.rq, .rdx, o.mask, true⟩
    ((s.modCoh fun h => { h with outs := h.outs ++ [⟨r, s.timeNs, 760, .home, false⟩] }).homeTake r).homeCheck w.line

/-- Every operation whose turn it is starts. -/
def State.homePump (s : State) : Nat → State
  | 0 => s
  | n + 1 =>
    match (homeHeads s.coh.homeOps).find? fun w =>
      if w.op == .read then !s.recreating w.line else (s.outOf w.rq w.line).isNone with
    | some w => (s.homeStart w).homePump n
    | none => s

def State.homeGo (s : State) : State := s.homePump (2 * s.coh.homeOps.length + 1)

/-- The home has received tokens of a line. -/
def State.homeSettle (s : State) (line : Nat) : State := (s.homeCheck line).homeGo

/-- R259, R283, R288, R289: an operation joins those of its requester. -/
def State.homePost (s : State) (w : HomeWrite) : State :=
  (s.modCoh fun h => { h with homeOps := h.homeOps ++ [w] }).homeGo

end Sys2Proof.Machine
end

