-- ==== Sys2Proof/Machine/Commit.lean ====
section
/-! DEFINITION. Machine/Commit.lean: the steps of a commit (R41, R43, R305, R311), what is performed at its point (R204, R243,
R259, R285, R289), and what follows it (R37, R154, R387, R388). -/

namespace Sys2Proof.Machine

/-! ### Steps 1 and 2 (R41) -/

/-- An outstanding result that a commit waits for: everything of the region but a load of a
strongly-ordered page (R41, R144). -/
def Pend.isOrdered (p : Pend) : Bool :=
  match p.kind with
  | .load _ _ keys _ _ => keys.any fun k => k.2 == .ordered
  | _ => false

/-- R41 step 1: an engine operation or a result of the open region is outstanding. -/
def Core.busyFor (k : Core) (x : CtxId) : Bool :=
  ((k.ctxAt x).pend.any fun p => p.region == (k.ctxAt x).region && !p.isOrdered)
    || (k.tileQ.any fun m => m.x == x) || (k.matQ.any fun m => m.x == x)

/-- R41 step 2 begins in the cycle in which step 1 is done. -/
def State.drainAt (s : State) (c : CoreId) (x : CtxId) (cycle : Nat) : State :=
  let k := s.coreAt c
  let v := k.ctxAt x
  if v.cm.phase = .drain && !k.busyFor x then
    s.setCtx c x { v with cm := ⟨.horizon, cycle + Config.horizon⟩ }
  else s

/-- R41, R66: an operation has completed, in the cycle before this one. -/
def State.advanceDrain (s : State) (c : CoreId) (x : CtxId) : State := s.drainAt c x ((s.coreAt c).cycle - 1)

/-- R41: a commit begins. -/
def State.beginCommit (s : State) (c : CoreId) (x : CtxId) : State :=
  (s.modCtx c x fun v => { v with cm := ⟨.drain, 0⟩ }).drainAt c x (s.coreAt c).cycle

/-! ### Writes to other devices (R289, R290, R408) -/

/-- R290: the number of the current window. -/
def State.window (s : State) : Nat := s.timeNs / (s.dev.tb.windowUs * 1000)

/-- R408: the next sequence number to a device. -/
def State.nextSeq (s : State) (dst : BitVec 4) : Nat := s.dev.seqOut[dst.toNat]'dst.isLt

/-- R289, R328, R408: a line write, or an atomic with no bytes, leaves for another device with the next sequence number, and is
kept until it is acknowledged. -/
def State.post (s : State) (c : CoreId) (x : CtxId) (dst : BitVec 4) (bs : List (Nat × Byte)) : State :=
  let n := s.nextSeq dst
  (s.debit c x 0 64 0).modDev fun d => { d with
    unacked := d.unacked ++ [⟨dst, n, (c, x), s.window, bs⟩], sent := d.sent ++ [(dst, n)]
    seqOut := d.seqOut.set dst.toNat (n + 1) dst.isLt }

/-- R289, R408: the line writes to other devices leave, with sequence numbers. -/
def State.sendRemote (s : State) (c : CoreId) (x : CtxId) : State :=
  let v := s.ctxAt c x
  let keys := distinct ((v.gate.filter fun e => isRemoteKey e.key).map (·.key))
  (distinct (keys.map fun k => k / 64)).foldl (fun s ln =>
    s.post c x (remoteDev (ln * 64)) ((keys.filter fun k => k / 64 = ln).filterMap fun k =>
      (gateFinal v.gate k).map fun b => (remoteAddr k, b))) s

/-! ### Accesses to strongly-ordered pages (R43, R144, R259, R285) -/

/-- R259: a write of n bytes at a physical address as an operation of its line's home. -/
def storeOp (pa n : Nat) (v : Word) : HomeOp :=
  .write (maskOf (lineOf pa) ((List.range n).map fun i => pa + i)) (BitVec.ofNat 512 (v.toNat * 2 ^ (8 * (pa % 64))))

def State.orderedStoreTo (s : State) (c : CoreId) (x : CtxId) (o : OrdStore) (r : Range) : State :=
  match r with
  | .regs => (s.debit c x 0 64 0).regsStore (o.pa % 2 ^ 24) o.n o.val
  | .host =>
    let s := (s.debit c x 0 64 0).dropUntracked c (lineOf o.pa)
    ({ s with mem := cellWrite s.mem o.pa (leBytes o.n o.val.toNat) }).modCtx c x fun v =>
      { v with hostUnacked := v.hostUnacked + 1 }
  | .device => (s.debit c x 0 64 40).homePost ⟨rqOf c x, lineOf o.pa, storeOp o.pa o.n o.val, none⟩
  | .nothing => s

/-- R259, R285: a store to a strongly-ordered page is performed at its target; in device memory it is a one-line commit of the
home under the context's RQ. -/
def State.orderedStore (s : State) (c : CoreId) (x : CtxId) (o : OrdStore) : State :=
  s.orderedStoreTo c x o (s.rangeOf o.pa)

/-- R259: one byte of a strongly-ordered page. -/
def State.orderedByte (s : State) (pa : Nat) : Byte :=
  if s.rangeOf pa = .regs then s.regsByte (pa % 2 ^ 24) else cellGet s.mem pa

/-- Sign or zero extension of the bytes of a load (R142). -/
def extendBytes (bs : List Byte) (sx : Bool) : Word :=
  let v := leVal bs
  if sx then BitVec.ofInt 64 (signedOf (8 * bs.length) v) else BitVec.ofNat 64 v

/-- R269: the path bound of an ordered access. -/
def State.orderedBound (s : State) (c : CoreId) (pa : Nat) : Nat :=
  if s.rangeOf pa = .regs then 300 else if s.rangeOf pa = .host then 6800 else (s.coreAt c).lpddr

/-- R144, R328, R329: the loads of strongly-ordered pages before a place of the program order read, and their results land
after the read. -/
def State.orderedLoads (s : State) (c : CoreId) (x : CtxId) (lim : Option Nat) : State :=
  let now (seq : Nat) : Bool := match lim with
    | some n => decide (seq < n)
    | none => true
  let cyc := (s.coreAt c).cycle
  let hit (p : Pend) : Bool := p.isOrdered && now p.seq
  let ps := (s.ctxAt c x).pend.filter hit
  let atHome (p : Pend) : Bool := match p.kind with
    | .load _ _ keys _ _ => s.rangeOf ((keys.map (·.1)).headD 0) == .device
    | _ => false
  let s := if ps.isEmpty then s else s.debit c x 0 (64 * ps.length) (40 * (ps.filter atHome).length)
  let read (p : Pend) : Pend :=
    match p.kind with
    | .load sh r keys sx _ =>
      { p with early := cyc + 1, due := cyc + s.orderedBound c ((keys.map (·.1)).headD 0)
               kind := .sreg sh r (extendBytes (keys.map fun k => s.orderedByte k.1) sx) }
    | _ => p
  s.modCtx c x fun v => { v with pend := v.pend.map fun p => if hit p then read p else p }

/-- R259: an operation that a home still has to perform for the context. -/
def State.homeBusy (s : State) (c : CoreId) (x : CtxId) : Bool := s.coh.homeOps.any fun w => w.rq == rqOf c x

/-- R43, R144, R259: the strongly-ordered accesses of the bundle, in slot order; each waits until the one before it has been
performed. The commit is done after the last. -/
def State.performOrdered (s : State) (c : CoreId) (x : CtxId) : Nat → State
  | 0 => s
  | n + 1 =>
    if s.homeBusy c x then s
    else
      match (s.ctxAt c x).soStores with
      | [] => (s.orderedLoads c x none).modCtx c x fun v => { v with cm := ⟨.done, 0⟩ }
      | o :: rest =>
        (((s.orderedLoads c x (some o.seq)).modCtx c x fun v => { v with soStores := rest }).orderedStore c x o).performOrdered c x n

/-! ### Steps 3 to 5 (R41, R304, R305) -/

/-- R204, R74: TPFL notifications: PFDONE is set and PFCOUNT rises, saturating at 255. -/
def pfNotify (u : Word) (n : Nat) : Word :=
  if n = 0 then u else putBits (u ||| 1) 15 8 (min 255 (bits u.toNat 15 8 + n))

/-- R200, R34: TLDM subtractions. -/
def State.subtractCast (s : State) (h : BitVec 32) : State :=
  match s.castLook h with
  | some e =>
    let e' := e.subtract 2048
    (s.setCast (castIndex h) e').spreadOverrun (decide (e.pending < 2048)) e'
  | none => s

/-- R305: after the merge, the tokens of a line of the write set: in the L1D, dirty, for a line that a scalar
store wrote; in the slice of the core's die otherwise; at the home for a line that no cache holds. One RTN to each lender. -/
def State.settleLine (s : State) (c : CoreId) (x : CtxId) (line : Nat) : State :=
  let l := s.lineAt line
  let g := l.gathOf c
  let h : Hold := ⟨(l.l1dHold c).count + g.hold.count - g.lent.length, true, true, true⟩
  let s := ((s.setLine line ((l.setGath c ⟨Hold.none, []⟩).setL1d c Hold.none)).returnLent line g.lent)
  let s :=
    if l.nc then (s.tidyL1d c line).sendHome line h
    else if (s.ctxAt c x).scalarLines.contains line then (s.fillL1d c line).modLine line fun l => l.setL1d c h
    else (s.tidyL1d c line).orActive c line h fun s => s.toSlice (dieOf c) line h
  match s.outOf (rqOf c x) line with
  | some o => s.endRequest o
  | none => s

/-- R304: a committer confirms when it holds all 256 tokens of every line of its write set; of two contexts of one core that both
ask for a line only one does (R278). -/
def State.confirmed (s : State) (c : CoreId) (x : CtxId) : Bool := (s.ctxAt c x).writeLines.all (s.lineReady c x)

/-- R296: the core holds every token of the lines that context x merges. -/
def State.allLines (s : State) (c : CoreId) (x : CtxId) : Bool :=
  (s.ctxAt c x).writeLines.all fun line => (s.lineAt line).coreTokens c == Config.tokens

/-- R307: the persistent requests of a commit that has confirmed its lines end; those of a guarded attempt last to its step 5
(R399). -/
def State.endPersistent (s : State) (c : CoreId) (x : CtxId) : State :=
  (s.coh.outs.filter fun o => o.req.rq == rqOf c x && o.converted && o.use != .home && !(s.ctxAt c x).guardLines.contains o.req.line).foldl
    (fun s o => s.endRequest o) s

/-- R41 step 3, R311: requests for the lines that are not complete yet, at most 16 at a time. -/
def State.gather (s : State) (c : CoreId) (x : CtxId) : State :=
  let v := s.ctxAt c x
  let todo := v.writeLines.filter fun l => (s.lineAt l).coreTokens c ≠ Config.tokens
  (todo.take 16).foldl (fun s l => s.requestAll c x l (v.writeMask l)) s

/-- The lines of device memory that the strongly-ordered accesses of a context's bundle name. -/
def State.orderedLines (s : State) (c : CoreId) (x : CtxId) : List Nat :=
  let v := s.ctxAt c x
  let loads := (v.pend.filter Pend.isOrdered).flatMap fun p => match p.kind with
    | .load _ _ keys _ _ => keys.map (·.1)
    | _ => []
  (((v.soStores.map (·.pa)) ++ loads).filter fun pa => s.rangeOf pa == .device).map lineOf

/-- R402, R403: the first poisoned line of the write set that the commit does not cover whole, or that a strongly-ordered access of
its bundle reads or writes a part of. -/
def State.poisonedPart (s : State) (c : CoreId) (x : CtxId) : Option Nat :=
  let v := s.ctxAt c x
  (v.writeLines.find? fun l => s.coh.poison.contains l && v.writeMask l != BitVec.allOnes 64).or
    ((s.orderedLines c x).find? s.coh.poison.contains)

/-- R304: requests that came to a core while a commit there was confirmed are answered now. -/
def State.answerDeferred (s : State) (c : CoreId) : State :=
  s.modCoh fun h => { h with
    net := h.net ++ ((h.deferred.filter fun d => d.1 == c).map (·.2))
    deferred := h.deferred.filter fun d => d.1 != c }

/-- R41 steps 4 and 5: the gated bytes are merged and become visible, tokens, pins and outputs go, the counts
of the region are cleared, and the region is closed; its strongly-ordered accesses are performed then (R43). -/
def State.commitStep (s : State) (c : CoreId) (x : CtxId) : State :=
  let v := s.ctxAt c x
  let lines := v.writeLines
  let s := lines.foldl (fun s l => s.raceOthers c x l (v.writeMask l)) s
  let s := lines.foldl (fun s l => s.keepStale l) s
  let s := { s with mem := mergeGate s.mem v.gate }
  let s := s.modCoh fun h => { h with poison := h.poison.filter fun l => !lines.contains l }
  let s := lines.foldl (fun s l => (s.dropUntracked c l).settleLine c x l) s
  let s := s.sendRemote c x
  let s := v.touts.foldl (fun s e => s.toutArrive e) s
  let s := v.tldmSubs.foldl (fun s h => s.subtractCast h) s
  let s := s.releaseGuard c x
  let s := s.releasePins c x
  let s := s.debit c x 0 0 (10 * lines.length)
  let s := s.modCtx c x fun w =>
    { w with gate := [], scalarLines := [], recs := [], touts := [], tldmSubs := []
             uicause := pfNotify w.uicause w.tpfDone, tpfDone := 0
             run := 0, race := 0, guarded := false, solo := false, opened := false, commitWin := s.window
             cm := ⟨.ordered, 0⟩ }
  (s.performOrdered c x (v.soStores.length + 1)).answerDeferred c

/-- The context halts, holding no gated byte and no pin (R241, R388). -/
def Ctx.halt (v : Ctx) : Ctx := { v with halted := true, infl := none, cm := CommitState.idle }

/-- What follows a commit that no X operation asked for (R37, R154, R387, R388). -/
def State.afterCommit (s : State) (c : CoreId) (x : CtxId) : State :=
  let v := s.ctxAt c x
  let clear (s : State) : State := s.modCtx c x fun v => { v with after := .none, cm := CommitState.idle, infl := none }
  if v.cm.phase ≠ .done then s
  else
    match v.after with
    | .none => s
    | .park => (clear s).parkCtx c x .preempt
    | .parkAt pc => ((clear s).modCtx c x fun v => { v with r := { v.r with pc := pc } }).parkCtx c x .segment
    | .failTask => (clear s).failCtx c x
    | .halt => (clear s).modCtx c x fun v => { v.halt with after := .halt }

/-- R311: cycles of steps 4 and 5 for a write set of n lines. -/
def mergeCycles (n : Nat) : Nat := if n = 0 then 2 else 5 + n

/-- R304, R305: a confirmed commit merges, unless its write set has a poisoned line that it leaves in part (R402). -/
def State.startMerge (s : State) (c : CoreId) (x : CtxId) : State :=
  match s.poisonedPart c x with
  | some l => (s.modCtx c x fun v => { v with cm := ⟨.horizon, v.cm.hEnd⟩ }).poisonHit c x l
  | none =>
    (s.endPersistent c x).modCtx c x fun v => { v with cm := ⟨.merge, (s.coreAt c).cycle + mergeCycles v.writeLines.length⟩ }

/-- R41 steps 3 to 5: a commit that is confirmed is performed; otherwise it goes on gathering, as it does again where a recreation has
taken its tokens (R296, R404). -/
def State.tryCommit (s : State) (c : CoreId) (x : CtxId) : State :=
  match (s.ctxAt c x).cm.phase with
  | .gather => if s.confirmed c x then s.startMerge c x else s.gather c x
  | .merge =>
    if (s.coreAt c).cycle ≤ (s.ctxAt c x).cm.hEnd then s
    else if s.allLines c x then (s.commitStep c x).afterCommit c x
    else (s.modCtx c x fun v => { v with cm := ⟨.gather, v.cm.hEnd⟩ }).gather c x
  | .ordered => (s.performOrdered c x ((s.ctxAt c x).soStores.length + 1)).afterCommit c x
  | _ => s

/-- R41: the horizon wait has ended: step 3 begins. -/
def State.endHorizon (s : State) (c : CoreId) (x : CtxId) : State :=
  let v := s.ctxAt c x
  if v.cm.phase = .horizon ∧ v.cm.hEnd ≤ (s.coreAt c).cycle then
    (s.modCtx c x fun v => { v with cm := ⟨.gather, v.cm.hEnd⟩ }).tryCommit c x
  else s

/-- R43: the strongly-ordered stores that a committed bundle has still to perform leave one after the other. -/
def State.flushOrdered (s : State) (c : CoreId) (x : CtxId) : Nat → State
  | 0 => s
  | n + 1 =>
    match (s.ctxAt c x).soStores with
    | [] => s
    | o :: rest => ((s.modCtx c x fun v => { v with soStores := rest }).orderedStore c x o).flushOrdered c x n

/-- R331, R332, R415: the task of a context enters FAILED, with its open region rolled back; a confirmed commit stands, with the
strongly-ordered accesses of its bundle (R43, R380, log 23). -/
def State.abandonCtx (s : State) (c : CoreId) (x : CtxId) : State :=
  let s := if (s.ctxAt c x).cm.phase = .merge then s.commitStep c x else s
  let s := if (s.ctxAt c x).cm.phase = .ordered then s.flushOrdered c x (s.ctxAt c x).soStores.length else s
  (s.rollback c x).failCtx c x

/-- Every context whose commit has passed step 2 looks at its tokens, its merge or its ordered accesses again. -/
def State.retryCommits (s : State) (c : CoreId) : State := allCtxs.foldl (fun s x => s.tryCommit c x) s

end Sys2Proof.Machine
end

