-- ==== Sys2Proof/Machine/Flags.lean ====
section
/-! DEFINITION. Machine/Flags.lean: the sticky flags and the first-event record (R119 to R123). -/

namespace Sys2Proof.Machine

/-- The five flags of one event in FFLAGS order: NV, DZ, OF, UF, NX from bit 0 (R119). -/
abbrev Flags := BitVec 5

def Flags.nv : Flags := 1
def Flags.dz : Flags := 2
def Flags.of : Flags := 4
def Flags.uf : Flags := 8
def Flags.nx : Flags := 16

/-- R119: TEN, the trap enables. -/
def Regs.ten (r : Regs) : Flags := r.fflags.extractLsb' 40 5

/-- R121: the record of an event. -/
def ferecOf (addr : BitVec 16) (pos : BitVec 3) (fl : Flags) (lat : Bool) : Word :=
  BitVec.ofNat 64 (addr.toNat + pos.toNat * 2 ^ 32 + fl.toNat * 2 ^ 40 + boolNat lat * 2 ^ 48 + 2 ^ 63)

/-- R121: the event at (cycle, place in program order) came before the other: in an earlier cycle, or in the same one
from an instruction that issued first. -/
def evBefore (a b : Nat × Nat) : Bool := decide (a.1 < b.1) || (a.1 == b.1 && decide (a.2 < b.2))

/-- R121: the first event since the record was cleared fills it. The machine may come to an event after one of a later
cycle, or to events of one cycle out of their order; so a held record gives way to an event that came before its own. -/
def Regs.recordEvent (r : Regs) (addr : BitVec 16) (pos : BitVec 3) (fl : Flags) (lat : Bool) (ev : Nat × Nat) : Regs :=
  if fl = 0 ∨ (r.ferec.getLsbD 63 ∧ !evBefore ev r.evAt) then r
  else { r with ferec := ferecOf addr pos fl lat, evAt := ev }

/-- R119 to R121: the flags of an event are raised at the position that issued it. -/
def Regs.raiseFlags (r : Regs) (addr : BitVec 16) (pos : BitVec 3) (fl : Flags) (lat : Bool) (ev : Nat × Nat) : Regs :=
  { (r.recordEvent addr pos fl lat ev) with fflags := r.fflags ||| (fl.setWidth 64 <<< (5 * pos.toNat)) }

/-- R119: a write of FFLAGS: the flags are W1C, TEN is RW. -/
def fflagsWrite (old v : Word) : Word :=
  (old &&& 0xFFFFFFFFFF &&& ~~~v) ||| (v &&& 0x1F0000000000)

/-- R121: a write of FEREC: writing 1 to VALID clears every field. -/
def ferecWrite (old v : Word) : Word := if v.getLsbD 63 then 0 else old

end Sys2Proof.Machine
end

