-- ==== Sys2Proof/Machine/Ops.lean ====
section
/-! DEFINITION. Machine/Ops.lean: the named operations over a context's registers (R65, R70, R92), the
result queue, taking an exception (R384 to R386, R388) and returning from one (R387), branches and the loop
engine (R147 to R154). -/

namespace Sys2Proof.Machine

/-! ### Scalar registers (R51, R52, R65, R70) -/

/-- R70: the name n denotes a shadow register. -/
def Regs.isShadow (r : Regs) (n : SReg) : Bool := r.inui && decide (56 ≤ n.toNat)

def shadowIx (n : SReg) : BitVec 3 := n.extractLsb' 0 3

/-- The value of the register that n names, with sh telling whether it is a shadow register. -/
def Regs.getAt (r : Regs) (sh : Bool) (n : SReg) : Word :=
  if sh then r.sh[(shadowIx n).toNat]'(shadowIx n).isLt
  else if n = 0 then 0 else r.s[n.toNat]'n.isLt

/-- R51: s0 reads zero. -/
def Regs.getS (r : Regs) (n : SReg) : Word := r.getAt (r.isShadow n) n

def Regs.emptyAt (r : Regs) (sh : Bool) (n : SReg) : Bool :=
  if sh then r.shEmpty.getLsbD (shadowIx n).toNat else n != 0 && r.sEmpty.getLsbD n.toNat

/-- R65: the register that n names is empty. -/
def Regs.isEmptyS (r : Regs) (n : SReg) : Bool := r.emptyAt (r.isShadow n) n

/-- The value v is written and the register is full; s0 discards it (R52). -/
def Regs.putAt (r : Regs) (sh : Bool) (n : SReg) (v : Word) : Regs :=
  if sh then
    { r with sh := r.sh.set (shadowIx n).toNat v (shadowIx n).isLt
             shEmpty := r.shEmpty &&& ~~~((1 : BitVec 8) <<< (shadowIx n).toNat) }
  else if n = 0 then r
  else { r with s := r.s.set n.toNat v n.isLt, sEmpty := r.sEmpty &&& ~~~((1 : BitVec 64) <<< n.toNat) }

def Regs.putS (r : Regs) (n : SReg) (v : Word) : Regs := r.putAt (r.isShadow n) n v

def Regs.markEmpty (r : Regs) (n : SReg) : Regs :=
  if r.isShadow n then { r with shEmpty := r.shEmpty ||| ((1 : BitVec 8) <<< (shadowIx n).toNat) }
  else if n = 0 then r else { r with sEmpty := r.sEmpty ||| ((1 : BitVec 64) <<< n.toNat) }

/-! ### Predicates and masks (R51, R52, R54) -/

/-- R51: p0 reads true. -/
def Regs.getP (r : Regs) (p : PReg) : Bool := p = 0 || r.p.getLsbD p.toNat

/-- R52: a write to p0 is discarded. -/
def Regs.putP (r : Regs) (p : PReg) (v : Bool) : Regs :=
  if p = 0 then r
  else if v then { r with p := r.p ||| ((1 : BitVec 16) <<< p.toNat) }
  else { r with p := r.p &&& ~~~((1 : BitVec 16) <<< p.toNat) }

/-- R51: k0 reads all ones. -/
def Regs.getK (r : Regs) (k : KReg) : BitVec 2048 := if k = 0 then BitVec.allOnes 2048 else r.k[k.toNat]'k.isLt

/-- R52: a write to k0 is discarded. -/
def Regs.putK (r : Regs) (k : KReg) (v : BitVec 2048) : Regs :=
  if k = 0 then r else { r with k := r.k.set k.toNat v k.isLt }

/-! ### The bundle being issued -/

/-- R386: adds an overlay entry, one for each register. -/
def State.note (s : State) (id : Byte) (old : Word) : State :=
  if s.cur.overlay.any fun e => e.1 == id then s
  else s.modCur fun u => { u with overlay := u.overlay ++ [(id, old)] }

/-- R25: the bundle waits; nothing of this slot takes effect. -/
def State.block (s : State) : State := s.modCur fun u => { u with stop := .blocked }

/-- A stall of n cycles (R25). -/
def State.stall (s : State) (n : Nat) : State := s.modCur fun u => { u with cost := u.cost + n }

/-- R123, R169: a slot stalls its bundle for n cycles, and the slots to its right take effect after them. -/
def State.stallSlots (s : State) (n : Nat) : State := s.modCur fun u => { u with cost := u.cost + n, late := u.late + n }

/-- The cycle in which the slot being executed takes effect: that of its bundle's issue, or, behind slots that have stalled the
bundle, one after it (R123, R169). -/
def State.now (s : State) : Nat := s.myCore.cycle + s.cur.late

/-- Predicate n was written by this bundle (R88). -/
def Ctx.touchP (v : Ctx) (p : PReg) : Ctx := { v with predAge := v.predAge.set p.toNat 0 p.isLt }

/-- R88: every predicate counts as written. -/
def Ctx.touchAllP (v : Ctx) : Ctx := { v with predAge := Vector.replicate 16 0 }

/-- R88: the distances after a bundle; 3 stands for 3 and more. -/
def Ctx.olderP (v : Ctx) : Vector (BitVec 2) 16 := v.predAge.map fun a => if a = 3 then 3 else a + 1

/-! ### Results (R65, R92) -/

/-- A result of the context whose destination is the scalar register (sh, n) is outstanding. -/
def Ctx.sregPending (v : Ctx) (sh : Bool) (n : SReg) : Bool :=
  v.pend.any fun p =>
    match p.kind with
    | .sreg sh' n' _ => sh' == sh && n' == n
    | .load sh' n' _ _ _ => sh' == sh && n' == n
    | .mrd sh' n' => sh' == sh && n' == n
    | .slab _ _ _ => false

/-- The cycle after the latest outstanding write to the register (R92). -/
def Ctx.sregAfter (v : Ctx) (sh : Bool) (n : SReg) : Nat :=
  v.pend.foldl (fun m p =>
    match p.kind with
    | .sreg sh' n' _ => if sh' == sh && n' == n then max m (p.due + 1) else m
    | .load sh' n' _ _ _ => if sh' == sh && n' == n then max m (p.due + 1) else m
    | .mrd sh' n' => if sh' == sh && n' == n then max m (p.due + 1) else m
    | .slab _ _ _ => m) 0

/-- Appends an outstanding result of the slot being executed. -/
def State.addPend (s : State) (early due : Nat) (fp : Bool) (fl : Flags) (k : PendKind) : State :=
  s.modMe fun v =>
    { v with pend := v.pend ++ [⟨v.seq, early, due, v.region, s.cur.pos, s.cur.addr, fp, fl, k⟩], seq := v.seq + 1 }

/-- RegWrite of R92 for a scalar register, with the flags its landing raises (R120). -/
def State.regWriteF (s : State) (n : SReg) (v : Word) (lat : Nat) (fp : Bool) (fl : Flags) : State :=
  let c := s.me
  let sh := c.r.isShadow n
  let cyc := s.now
  if lat ≤ 1 && !c.sregPending sh n then
    if n = 0 then s
    else (s.note (BitVec.ofNat 8 (0x80 + n.toNat)) (c.r.getS n)).modRegs fun r => r.putS n v
  else
    let due := max (cyc + lat) (c.sregAfter sh n)
    if n = 0 && fl = 0 then s
    else (s.modRegs fun r => r.markEmpty n).addPend due due fp fl (.sreg sh n v)

def State.regWrite (s : State) (n : SReg) (v : Word) (lat : Nat) : State := s.regWriteF n v lat false 0

/-- A predicate is written with latency 1. -/
def State.predWrite (s : State) (p : PReg) (v : Bool) : State :=
  if p = 0 then s
  else
    (s.note 0xC0 (s.me.r.p.setWidth 64)).modMe fun c => { c with r := c.r.putP p v }.touchP p

/-! ### STATUS (R73) -/

/-- R73: STATUS put together from its fields. -/
def statusOf (k : Core) (v : Ctx) : Word :=
  BitVec.ofNat 64 (boolNat v.r.mode + 2 * boolNat v.r.dbgen + 4 * boolNat v.r.uien + 8 * boolNat v.r.inui
    + 16 * boolNat k.timed) ||| (v.statusHi &&& 0x300)

/-- R382: TCAUSE, with ACTIVE from the checkpointed part. -/
def tcauseOf (v : Ctx) : Word := if v.r.active then v.tr.tcause ||| 0x8000000000000000
  else v.tr.tcause &&& 0x7FFFFFFFFFFFFFFF

/-! ### Taking an exception (R383 to R386, R388) -/

/-- R379, R383: the exception codes. -/
inductive Exc where
  | illegalBundle | illegalOperand | emptyRead | arithmetic | privilege | unimplemented | staleHandle
  | futureState | systemCall | breakpoint | hwBreakpoint | tileTable | ordering | timing | memoryModel | overflow
deriving DecidableEq, Repr

def Exc.code : Exc → Byte
  | .illegalBundle => 0x01 | .illegalOperand => 0x02 | .emptyRead => 0x03 | .arithmetic => 0x04
  | .privilege => 0x05 | .unimplemented => 0x06 | .staleHandle => 0x07 | .futureState => 0x08
  | .systemCall => 0x09 | .breakpoint => 0x0A | .hwBreakpoint => 0x0B | .tileTable => 0x0C
  | .ordering => 0x0D | .timing => 0x0E | .memoryModel => 0x0F | .overflow => 0x10

/-- The parameters of TrapEntry (R384, R385), with the overlay of R386. -/
structure TrapInfo where
  exc : Exc
  kind : BitVec 2
  fpos : BitVec 3
  slot : BitVec 3
  epc : BitVec 16
  val : Word
  arg : BitVec 12
  overlay : List (Byte × Word)
deriving DecidableEq, Repr

/-- R382: TCAUSE at entry, ACTIVE apart. -/
def TrapInfo.cause (t : TrapInfo) : Word :=
  BitVec.ofNat 64 (t.exc.code.toNat + t.slot.toNat * 2 ^ 8 + t.fpos.toNat * 2 ^ 11 + t.kind.toNat * 2 ^ 14
    + (if t.exc = .hwBreakpoint then 2 ^ 17 else 0) + t.arg.toNat * 2 ^ 20)

/-- R386: overlay identifiers and values; none for SLOT 0 and for a trapped rollback. -/
def TrapInfo.entries (t : TrapInfo) : List (Byte × Word) :=
  if t.slot = 0 ∨ t.kind = 2 then [] else t.overlay.take 8

/-- The frame of R384: TSTATUS, TEPC, TVAL, TCAUSE and the overlay registers. -/
def frameOf (k : Core) (v : Ctx) (t : TrapInfo) : TrapRegs :=
  { v.tr with
    tstatus := statusOf k v, tepc := t.epc.setWidth 64, tval := t.val, tcause := t.cause
    tovid := BitVec.ofNat 64 (leVal (t.entries.map (·.1)))
    tov := Vector.ofFn fun j => ((t.entries[j.val]?).map (·.2)).getD 0 }

/-- R382, R384: a handler is installed: EN = 1 and ADDR[1:0] = 0. -/
def TrapRegs.installed (t : TrapRegs) : Bool := t.tvec.getLsbD 63 && t.tvec.extractLsb' 0 2 = 0

/-- R384: the context after the entry: the frame, MODE 1, UIEN 0, ACTIVE 1, and the pc at the handler. A
trapped rollback leaves its region to start with the handler's first bundle. -/
def Ctx.enterTrap (k : Core) (v : Ctx) (t : TrapInfo) : Ctx :=
  { v with
    tr := frameOf k v t
    r := { v.r with mode := true, uien := false, active := true, pc := v.tr.tvec.extractLsb' 0 16 }
    opened := v.opened && t.kind = 0
    predAge := if t.kind = 2 then v.predAge else v.olderP
    trapOf := if t.kind = 2 then some (v.region - 1) else v.trapOf
    infl := none, reslot := none, cm := CommitState.idle, waitCast := none, waitWindow := none }

/-- R388: what happens when no handler can be entered. -/
def State.noHandler (s : State) (c : CoreId) (x : CtxId) (t : TrapInfo) (double : Bool) : State :=
  let v := s.ctxAt c x
  if t.exc = .timing then
    (s.modCtx c x fun v => { v with r := { v.r with active := false }, opened := false }).parkCtx c x .segment
  else if (t.exc = .breakpoint ∨ t.exc = .hwBreakpoint) ∧ !double then
    let s := s.modCtx c x fun v =>
      { v with tr := frameOf (s.coreAt c) v t, r := { v.r with active := true }, after := .halt }
    s.beginCommit c x
  else
    let s := if t.kind = 2 then s.modCtx c x fun v => { v with opened := false } else s.rollback c x
    let s := s.failCtx c x
    if t.exc = .tileTable ∨ t.exc = .ordering then
      s.logEvent (coreEntry 0x2C 2 c x v.run t.val)
    else s

/-- TrapEntry of R384: a trapped rollback first discards the region; then the handler is entered, or R388
applies. -/
def State.trapEntry (s : State) (c : CoreId) (x : CtxId) (t : TrapInfo) : State :=
  let s := if t.kind = 2 then s.rollback c x else s
  let v := s.ctxAt c x
  if !v.tr.installed || v.r.active then s.noHandler c x t (v.r.active && t.kind ≠ 2)
  else s.setCtx c x (Ctx.enterTrap (s.coreAt c) v t)

/-- R383: the branch word of the bundle being issued. -/
def State.branchWord (s : State) : Word :=
  match s.cur.br with
  | some t => BitVec.ofNat 64 (t.toNat + 65536)
  | none => 0

/-- The issuing context stops this bundle here; with the bundle's own cycle the entry takes 6 (R384). -/
def State.endTrapped (s : State) : State := s.modCur fun u => { u with stop := .trapped, cost := u.cost + 5 }

/-- R385: a slot-precise exception at the position being executed. -/
def State.trapSlot (s : State) (e : Exc) : State :=
  (s.trapEntry s.cur.core s.cur.ctx
    ⟨e, 0, s.cur.pos, s.cur.pos, s.cur.addr, s.branchWord, 0, s.cur.overlay⟩).endTrapped

/-- R385: a slot-precise exception with a given TVAL (R249). -/
def State.trapSlotVal (s : State) (e : Exc) (val : Word) : State :=
  (s.trapEntry s.cur.core s.cur.ctx
    ⟨e, 0, s.cur.pos, s.cur.pos, s.cur.addr, val, 0, s.cur.overlay⟩).endTrapped

/-- R385: an operation exception: the commit stands, slot-resume 7 at the bundle (R224). -/
def State.trapOp (s : State) (e : Exc) (val : Word) : State :=
  (s.trapEntry s.cur.core s.cur.ctx ⟨e, 1, 7, 7, s.cur.addr, val, 0, s.cur.overlay⟩).endTrapped

/-- R379, R385: a trapped rollback of a context's region, raised by an instruction at position fpos. With no region
open, as while an X operation waits, the bundle in flight is the resume point, at its X slot (log 23). -/
def State.trapRollback (s : State) (c : CoreId) (x : CtxId) (e : Exc) (fpos : BitVec 3) (val : Word) : State :=
  let v := s.ctxAt c x
  if v.opened then s.trapEntry c x ⟨e, 2, fpos, 0, v.ckpt.pc, val, 0, []⟩
  else s.trapEntry c x ⟨e, 2, fpos, if v.infl.isSome then 7 else 0, v.r.pc, val, 0, []⟩

/-! ### The loop engine (R147 to R154) -/

/-- R125: a sequential address within the half. -/
def seqPc (pc : BitVec 16) (n : Nat) : BitVec 16 :=
  BitVec.ofNat 16 (pc.toNat / 32768 * 32768 + (pc.toNat % 32768 + n) % 32768)

/-- R152: the rotation of the stage predicates: p(8+j) takes p(8+j-1), p8 the given value. -/
def rotateP (p : BitVec 16) (stages : Nat) (p8 : Bool) : BitVec 16 :=
  let hi := (List.range 8).foldl (fun (m : BitVec 16) j =>
    if j = 0 then (if p8 then m ||| ((1 : BitVec 16) <<< 8) else m)
    else if j < stages then (if p.getLsbD (7 + j) then m ||| ((1 : BitVec 16) <<< (8 + j)) else m)
    else (if p.getLsbD (8 + j) then m ||| ((1 : BitVec 16) <<< (8 + j)) else m)) 0
  (p &&& 0xFF) ||| hi

/-- R154: the task that resumes on a pipelined loop whose drain is complete (every kernel iteration of the remaining
count is still to run, and no stage predicate is set) starts the prologue again: p8 is true. -/
def Regs.refill (r : Regs) : Regs :=
  match r.loops with
  | l :: _ =>
    if l.pipelined && l.stages != 0 && r.pc == l.start && l.kernel == l.remaining + l.stages.toNat
        && (List.range (l.stages.toNat + 1)).all fun j => !r.p.getLsbD (8 + j) then { r with p := r.p ||| 0x100 } else r
  | [] => r

/-- R152: p8 to p(8+S-1) are all false. -/
def stagesClear (p : BitVec 16) (stages : Nat) : Bool := (List.range stages).all fun j => !p.getLsbD (8 + j)

/-- The step of R152 after the last bundle of the innermost level. It works on the levels ls with the next sequential
address nxt: the levels, the predicates, the next pc, whether the predicates rotated, and whether the task parks after a
commit (R154). req is a pre-emption request that no level has taken yet, popped tells that an inner level has ended with
this bundle, drained that the drain of one has. Where an inner level pops at a bundle that an outer LOOPP of two or
more stages shares, the request sets the drain of the outer one and the task parks at its end only; and a remaining count that
is 0 already stays 0 where software has set p8 in the epilogue. R154 and R152 state neither (DESIGN CHOICE, log 13). -/
def loopStep (req popped drained : Bool) (nxt : BitVec 16) : List LoopLevel → BitVec 16 →
    List LoopLevel × BitVec 16 × BitVec 16 × Bool × Bool
  | [], p => ([], p, nxt, false, drained || (req && popped))
  | l :: rest, p =>
    if l.stop ≠ nxt then (l :: rest, p, nxt, false, drained || (req && popped))
    else
      let st := l.stages.toNat + 1
      let launched := !l.pipelined || p.getLsbD 8
      let remaining := if launched then l.remaining - 1 else l.remaining
      let kernel := l.kernel - 1
      let drains := req && !drained && l.pipelined && decide (1 < st)
      let drain := l.drain || drains
      let p' := if l.pipelined then rotateP p st (decide (0 < remaining) && !drain) else p
      if kernel = 0 then
        let r := loopStep (req && !l.drain) true (drained || l.drain) nxt rest p'
        (r.1, r.2.1, r.2.2.1, r.2.2.2.1 || l.pipelined, r.2.2.2.2)
      else if drain && stagesClear p' st then
        ({ l with remaining := remaining, kernel := remaining + st - 1, drain := false } :: rest, p', l.start, true, true)
      else
        ({ l with remaining := remaining, kernel := kernel, drain := drain } :: rest, p', l.start, l.pipelined
        , drained || (req && !(l.pipelined && decide (1 < st))))

/-- R154, R389: a pre-emption request that can be taken now. -/
def State.preemptible (s : State) (c : CoreId) (x : CtxId) : Bool :=
  let v := s.ctxAt c x
  v.preemptReq && !v.r.active && !(s.coreAt c).timed

/-- R154, R400: an iteration's end is to stop the context: a pre-emption request can be taken, or another context of a throughput
core is to run solo. -/
def State.loopReq (s : State) (c : CoreId) (x : CtxId) : Bool :=
  s.preemptible c x || (!(s.coreAt c).timed && (s.coreAt c).soloHolds x)

/-- The pc moves on after a bundle of the issuing context: to a taken branch's target, else through the loop
engine (R147, R152), which meets the request req; the result tells whether the context stops after a commit of the region (R154). -/
def State.advanceBy (s : State) (req : Bool) : Bool × State :=
  match s.cur.br with
  | some t => (false, s.modRegs fun r => { r with pc := t })
  | none =>
    let r := s.me.r
    let (ls, p, pc, rot, park) := loopStep req false false s.cur.next r.loops r.p
    let s := s.modRegs fun r => { r with loops := ls, p := p, pc := pc }
    (park, if rot then
      s.modMe fun v => { v with predAge := Vector.ofFn fun i => if 8 ≤ i.val then 0 else v.predAge[i.val] }
    else s)

/-- The pc moves on with what waits to stop the context at an iteration's end. -/
def State.advancePc (s : State) : Bool × State := s.advanceBy (s.loopReq s.cur.core s.cur.ctx)

/-- The pc moves on behind a bundle at which the context commits, parks or traps of itself: that is the point at which a request
is taken (R154), and a drain that ends there with the context going on starts its prologue again. -/
def State.advanceQuiet (s : State) : State :=
  let (drained, s) := s.advanceBy false
  if drained then s.modRegs Regs.refill else s

/-- R154: the drain of a loop is under way; the request that began it is taken at its end. -/
def Ctx.draining (v : Ctx) : Bool := v.r.loops.any fun l => l.drain

/-- R153: a branch of the bundle being issued would be taken in the last bundle of a loop body. -/
def State.inLastBundle (s : State) : Bool :=
  match s.me.r.loops with
  | l :: _ => l.stop == s.cur.next
  | [] => false

/-- The bytes from address a on to address b of the same half, where sequential addresses wrap (R125). -/
def halfDist (a b : BitVec 16) : Nat := (b.toNat % 32768 + 32768 - a.toNat % 32768) % 32768

/-- An address within [start, end) of a level (R153). The end is 4L bytes after the start as sequential fetch goes, so
that of a body which reaches or passes the end of its half wraps to the start of the half (DEDUCED from R125, log 31). -/
def LoopLevel.inside (l : LoopLevel) (t : BitVec 16) : Bool :=
  l.start.getLsbD 15 == t.getLsbD 15 && decide (halfDist l.start t < halfDist l.start l.stop)

/-- R153: a target outside a level's body pops that level and every level inside it: levels stay from the
innermost outside which no target lies. -/
def popLevels (t : BitVec 16) (ls : List LoopLevel) : List LoopLevel :=
  (ls.reverse.takeWhile fun l => l.inside t).reverse

/-! ### Returning from an exception (R387) -/

/-- ERET other than after a timing trap: MODE, DBGEN and UIEN from TSTATUS, ACTIVE 0, and the bundle at TEPC
re-entered from position SLOT. For a TEPC that is no multiple of 4, where no bundle starts (R79), the spec names no fate: the
bytes from there on are fetched as a bundle (DESIGN CHOICE, log 36). -/
def Ctx.eret (v : Ctx) : Ctx :=
  { v with
    r := { v.r with mode := v.tr.tstatus.getLsbD 0, dbgen := v.tr.tstatus.getLsbD 1
                    uien := v.tr.tstatus.getLsbD 2, active := false, pc := v.tr.tepc.extractLsb' 0 16 }
    reslot := some (v.tr.tcause.extractLsb' 8 3), predAge := Vector.replicate 16 1 }

/-- R387: TCAUSE tells a timing-trap handler. -/
def TrapRegs.fromTiming (t : TrapRegs) : Bool :=
  t.tcause.extractLsb' 14 2 = 2 && t.tcause.extractLsb' 0 8 = 0x0E

/-- R387: ERET of the issuing context: after a timing trap the region commits and the task then parks at
TEPC or fails; otherwise the handler ends and the bundle at TEPC is re-entered, after 4 cycles. -/
def State.eretMe (s : State) : State :=
  let v := s.me
  if v.tr.fromTiming then
    let after := if v.tr.tcause.getLsbD 16 then After.failTask else After.parkAt (v.tr.tepc.extractLsb' 0 16)
    let slot := v.tr.tcause.extractLsb' 8 3
    let s := s.setMe { v with
      r := { v.r with active := false }, after := after, reslot := if slot = 0 then none else some slot }
    (s.beginCommit s.cur.core s.cur.ctx).modCur fun u => { u with stop := .left }
  else (s.setMe v.eret).modCur fun u => { u with stop := .left, cost := u.cost + 3 }

end Sys2Proof.Machine
end

