-- ==== Sys2Proof/Machine/Layout.lean ====
section
/-! DEFINITION. Machine/Layout.lean: the layout unit: which bytes of a tensor a tile names (R114, R190, R195, R196, R201, R202). -/

namespace Sys2Proof.Machine

/-! ### Tiles and records (R190, R195, R196, R114) -/

/-- R114: bits of an element in its record. -/
def Desc.bits (d : Desc) : Nat :=
  match d.geom with
  | 0 => 8 * fmtWidth d.fmt
  | 1 => 8
  | 2 => 6
  | _ => if d.plane = 2 then 4 else 2

/-- The kinds of tile a command moves: one slab of a descriptor's elements, a pair of them, planed T8, or T12. -/
inductive TileKind where
  | one | pair | t8 | t12
deriving DecidableEq, Repr

/-- R190: element width of a tile in its slab. -/
def tileWidth (k : TileKind) (d : Desc) : Nat :=
  match k with
  | .one => if d.geom = 2 then 1 else fmtWidth d.fmt
  | .pair => fmtWidth d.fmt
  | .t8 => 1
  | .t12 => 2

/-- R190: rows of one slab and elements of a row, by width. -/
def slabRows (w : Nat) : Nat := if w = 1 then 32 else 16
def tileCols (w : Nat) : Nat := if w = 4 then 32 else 64

/-- R190: rows of a tile. -/
def tileRows (k : TileKind) (w : Nat) : Nat :=
  match k with
  | .pair | .t12 => 32
  | _ => slabRows w

def TileKind.slabs : TileKind → Nat
  | .pair | .t12 => 2
  | _ => 1

/-- Where the elements of one tile row lie in the record bytes of a tensor: first byte, bytes, the scale byte,
and the number of elements inside the tensor. -/
structure Span where
  off : Nat
  len : Nat
  scale : Option Nat
  n : Nat
deriving DecidableEq, Repr

/-- R196: the elements of tile row x1; whole takes in the positions of the record past the row's end (R202). -/
def rowSpan (d : Desc) (cols c0 x1 c2 c3 : Nat) (whole : Bool) : Option Span :=
  if d.dim 0 ≤ c0 ∨ d.dim 1 ≤ x1 ∨ d.dim 2 ≤ c2 ∨ d.dim 3 ≤ c3 then none
  else
    let ln := (c3 * d.dim 2 + c2) * d.dim 1 + x1
    let n := min cols (d.dim 0 - c0)
    if d.geom = 0 then
      let w := fmtWidth d.fmt
      some ⟨(ln * d.dim 0 + c0) * w, n * w, none, n⟩
    else
      let base := (ln * ceilDiv (d.dim 0) 64 + c0 / 64) * recSize d.geom d.plane
      some ⟨base, ceilDiv ((if whole then 64 else n) * d.bits) 8
        , if d.geom = 1 then some (base + 64) else if d.geom = 2 then some (base + 48) else none, n⟩

/-- R201: what an engine's access of one byte meets. A byte of a strongly-ordered page raises the ordering-attribute exception also
where its leaf differs from the descriptor or may not be written; R201, R43 and R391 do not say which of the two exceptions one
byte raises (DESIGN CHOICE, log 54). -/
def Xlat.tileKey (d : Desc) (store : Bool) (a : Nat) (r : Xlat) : Except (Exc × Nat) (Nat × PageKind) :=
  match r with
  | .fault => .error (.tileTable, a)
  | .remote dev => .ok (remoteKey dev a, .remote)
  | .ok pa l =>
    if l.so then .error (.ordering, a)
    else if l.fmt ≠ d.fmt ∨ l.geom ≠ d.geom ∨ l.plane ≠ d.plane ∨ (store ∧ !l.w) then .error (.tileTable, a)
    else .ok (pa, l.kind)

/-- R201, R255: the key of a record byte of the tensor that a descriptor names. -/
def State.tileKey (s : State) (d : Desc) (store : Bool) (off : Nat) : Except (Exc × Nat) (Nat × PageKind) :=
  (s.translate (2 ^ 48 * d.tid + off)).tileKey d store (2 ^ 48 * d.tid + off)

/-- The keys of n consecutive record bytes, which lie in at most two frames. Each line of them is checked, since its channel may
not be ready (R338). -/
def State.spanKeys (s : State) (d : Desc) (store : Bool) (off n : Nat) :
    Except (Exc × Nat) (List (Nat × PageKind)) :=
  if n = 0 then .ok []
  else
    let cut := min n (65536 - off % 65536)
    let firsts := off :: (List.range ((off + n - 1) / 64 - off / 64)).map fun i => (off / 64 + 1 + i) * 64
    match firsts.findSome? fun o => match s.tileKey d store o with
      | .error e => some e
      | .ok _ => none with
    | some e => .error e
    | none =>
      match s.tileKey d store off, s.tileKey d store (off + n - 1) with
      | .error e, _ => .error e
      | _, .error e => .error e
      | .ok a, .ok b =>
        .ok (((List.range cut).map fun i => (a.1 + i, a.2))
          ++ (List.range (n - cut)).map fun i => (b.1 + 1 + i - (n - cut), b.2))

/-- The keys of one row of a tile: elements, scale byte, extension planes. -/
structure RowKeys where
  n : Nat
  main : List (Nat × PageKind)
  scale : List (Nat × PageKind)
  p1 : List (Nat × PageKind)
  p2 : List (Nat × PageKind)
deriving DecidableEq, Repr

def RowKeys.all (r : RowKeys) : List (Nat × PageKind) := r.main ++ r.scale ++ r.p1 ++ r.p2

/-- The kind of tile a queued command moves. -/
def TileCmd.kind (m : TileCmd) : TileKind :=
  match m.op with
  | .ldp | .stM => if m.td.fmt = 10 then .t8 else if m.td.fmt = 11 then .t12 else .pair
  | _ => .one

/-- Whether a command stores. -/
def TileCmd.isStore (m : TileCmd) : Bool :=
  match m.op with
  | .st | .stM => true
  | _ => false

/-- R196, R201, R202: the keys of a tile row, in the order they are translated; none for a row outside. -/
def State.rowKeys (s : State) (m : TileCmd) (row : Nat) : Except (Exc × Nat) (Option RowKeys) :=
  let w := tileWidth m.kind m.td
  let at_ (d : Desc) : Option Span := rowSpan d (tileCols w) m.c0 (m.c1 + row) m.c2 m.c3 m.isStore
  let part (d : Desc) (use : Bool) : Except (Exc × Nat) (List (Nat × PageKind)) :=
    if use then
      match at_ d with
      | some sp => s.spanKeys d m.isStore sp.off sp.len
      | none => .ok []
    else .ok []
  match at_ m.td with
  | none => .ok none
  | some sp => do
    let main ← s.spanKeys m.td m.isStore sp.off sp.len
    let scale ← match sp.scale with
      | some o => s.spanKeys m.td m.isStore o 1
      | none => .ok []
    let p1 ← part m.p1 (m.kind == .t8 || m.kind == .t12)
    let p2 ← part m.p2 (m.kind == .t12)
    .ok (some ⟨sp.n, main, scale, p1, p2⟩)

/-- The keys of every row of a tile. -/
def State.tileKeys (s : State) (m : TileCmd) : Except (Exc × Nat) (List (Option RowKeys)) :=
  (List.range (tileRows m.kind (tileWidth m.kind m.td))).mapM fun r => s.rowKeys m r

/-- The keys of all rows, in order. -/
def rowsKeys (rs : List (Option RowKeys)) : List (Nat × PageKind) :=
  rs.flatMap fun r => match r with
    | some k => k.all
    | none => []

/-- R270: an address of each page of 64 KiB that the rows of a tile touch. -/
def TileCmd.pages (m : TileCmd) : List Nat :=
  let w := tileWidth m.kind m.td
  let at_ (d : Desc) (row : Nat) : List Nat :=
    match rowSpan d (tileCols w) m.c0 (m.c1 + row) m.c2 m.c3 m.isStore with
    | some sp => [2 ^ 48 * d.tid + sp.off, 2 ^ 48 * d.tid + sp.off + (sp.len - 1)] ++ (sp.scale.map fun o => 2 ^ 48 * d.tid + o).toList
    | none => []
  let ds := m.td :: ((if m.kind == .t8 || m.kind == .t12 then [m.p1] else []) ++ if m.kind == .t12 then [m.p2] else [])
  (List.range (tileRows m.kind w)).flatMap fun r => ds.flatMap fun d => at_ d r

end Sys2Proof.Machine
end

