-- ==== Sys2Proof/Machine/Operands.lean ====
section
/-! DEFINITION. Machine/Operands.lean: the operand forms of slots: scalar sources in block and trap mode
(R67), slab names (R53), index registers (R55, R56), shapes (R58, R60), slab results and their landing
(R65, R66, R68, R120). -/

namespace Sys2Proof.Machine

/-! ### Scalar sources (R67, R92) -/

/-- RegRead of R92: an empty register raises the empty-read exception in trap mode and blocks in block mode;
otherwise k goes on with its value. -/
def State.readS (s : State) (n : SReg) (trap : Bool) (k : Word → State) : State :=
  if s.me.r.isEmptyS n then (if trap then s.trapSlot .emptyRead else s.block) else k (s.me.r.getS n)

/-- Two scalar sources. -/
def State.readSS (s : State) (a b : SReg) (ma mb : Bool) (k : Word → Word → State) : State :=
  s.readS a ma fun x => s.readS b mb fun y => k x y

/-- c, or the exception e at this slot. -/
def State.check (s : State) (c : Bool) (e : Exc) (k : State) : State := if c then k else s.trapSlot e

/-! ### Index registers (R55, R56) -/

def ixBase (w : Word) : Nat := bits w.toNat 8 0
def ixLimit (w : Word) : Nat := bits w.toNat 24 16
def ixCur (w : Word) : Nat := bits w.toNat 40 32
def ixStep (w : Word) : Int := signedOf 9 (bits w.toNat 56 48)

/-- R55: the bits of the four fields. -/
def ixMask : Word := 0x01FF01FF01FF01FF

/-- R55: BASE < LIMIT ≤ partition size and BASE ≤ CUR < LIMIT. -/
def ixOk (part : Nat) (w : Word) : Bool :=
  decide (ixBase w < ixLimit w) && decide (ixLimit w ≤ part) && decide (ixBase w ≤ ixCur w)
    && decide (ixCur w < ixLimit w)

/-- R56: the post-increment. -/
def ixNext (w : Word) : Word :=
  let span : Int := ixLimit w - ixBase w
  let cur : Int := ixBase w + ((ixCur w : Int) - ixBase w + ixStep w) % span
  putBits w 40 32 cur.toNat

def Regs.getIx (r : Regs) (j : IxReg) : Word := r.ix[j.toNat]'j.isLt
def Regs.putIx (r : Regs) (j : IxReg) (v : Word) : Regs := { r with ix := r.ix.set j.toNat v j.isLt }

/-- An index register is written, with its overlay entry (R386). -/
def State.ixWrite (s : State) (j : IxReg) (v : Word) : State :=
  (s.note (BitVec.ofNat 8 (0xC4 + j.toNat)) (s.me.r.getIx j)).modRegs fun r => r.putIx j v

/-! ### Slab names (R53) -/

/-- R53: the index register that a field names, if it names one. -/
def fieldIx (f : VField) : Option IxReg := if 56 ≤ f.toNat then some (f.extractLsb' 0 2) else none

/-- R53: the index register that a field post-increments. -/
def fieldInc (f : VField) : Option IxReg := if 60 ≤ f.toNat then some (f.extractLsb' 0 2) else none

/-- R53: the partition-relative slab that a field names. -/
def slabName (r : Regs) (vwin : BitVec 32) (f : VField) : Nat :=
  match fieldIx f with
  | some j => ixCur (r.getIx j)
  | none => bits vwin.toNat 8 0 + f.toNat

def Ctx.slab (v : Ctx) (f : VField) : Nat := slabName v.r v.vwin f

/-- R53: the index registers the fields post-increment, each once, in increasing order (R386). -/
def incsOf (fs : List VField) : List IxReg :=
  ([0, 1, 2, 3] : List IxReg).filter fun j => fs.any fun f => fieldInc f == some j

/-- R53, R56: the post-increments of a slot, after it. -/
def State.postInc (s : State) (fs : List VField) : State :=
  (incsOf fs).foldl (fun s j => s.ixWrite j (ixNext (s.me.r.getIx j))) s

/-- The slabs of the issuing context's partition. -/
def State.myPart (s : State) : Nat := s.myCore.partSlabs s.cur.ctx

/-- R53, R67: the slab of a field must lie within the partition; an empty slab blocks or traps. -/
def State.readV (s : State) (f : VField) (trap : Bool) (k : Nat → State) : State :=
  let q := s.me.slab f
  if s.myPart ≤ q then s.trapSlot .illegalOperand
  else if s.me.slabEmpty.contains q then (if trap then s.trapSlot .emptyRead else s.block)
  else k q

/-- R53: the slab of a destination field. -/
def State.destV (s : State) (f : VField) (k : Nat → State) : State :=
  let q := s.me.slab f
  if s.myPart ≤ q then s.trapSlot .illegalOperand else k q

/-- R63: an even slab whose pair lies within the partition. -/
def State.destPair (s : State) (f : VField) (k : Nat → State) : State :=
  s.destV f fun q => if q % 2 = 1 ∨ s.myPart ≤ q + 1 then s.trapSlot .illegalOperand else k q

/-- A pair read as a source. -/
def State.readPair (s : State) (f : VField) (trap : Bool) (k : Nat → State) : State :=
  s.readV f trap fun q =>
    if q % 2 = 1 ∨ s.myPart ≤ q + 1 then s.trapSlot .illegalOperand
    else if s.me.slabEmpty.contains (q + 1) then (if trap then s.trapSlot .emptyRead else s.block)
    else k q

/-! ### Shape (R58, R60) -/

/-- R58: width in bytes. -/
def tyWidth : ElemTy → Nat
  | .i8 => 1 | .i16 => 2 | .i32 => 4 | .n8 => 1 | .n16 => 2 | .n32 => 4 | .bf16 => 2 | .fp32 => 4

def tyInt : ElemTy → Bool
  | .i8 | .i16 | .i32 => true
  | _ => false
def tyNat : ElemTy → Bool
  | .n8 | .n16 | .n32 => true
  | _ => false
def tyFp : ElemTy → Bool
  | .bf16 | .fp32 => true
  | _ => false

/-- A decoded VSHAPE. -/
structure Shape where
  rows : Nat
  cols : Nat
  ty : ElemTy
deriving DecidableEq, Repr

/-- R58: the fields of VSHAPE; it always holds a legal shape, so a reserved ETYPE is never met. -/
def shapeOf (v : BitVec 32) : Shape :=
  { rows := bits v.toNat 6 0, cols := bits v.toNat 16 8
    ty := (ElemTy.ofCode (v.extractLsb' 20 4)).getD .fp32 }

/-- R58, R164: the shapes VSETSHAPE accepts. -/
def shapeOk (v : BitVec 32) : Bool :=
  match ElemTy.ofCode (v.extractLsb' 20 4) with
  | none => false
  | some t =>
    let r := bits v.toNat 6 0
    let c := bits v.toNat 16 8
    decide (1 ≤ r) && decide (r ≤ 64) && decide (1 ≤ c) && decide (c ≤ 256) && decide (r * c * tyWidth t ≤ 2048)

/-- The bits of the fields of VSHAPE. -/
def shapeMask : BitVec 32 := 0x00F1FF7F

def Shape.count (h : Shape) : Nat := h.rows * h.cols

def State.shape (s : State) : Shape := shapeOf s.me.vshape

/-- The n elements of w bytes at the start of a byte list, little-endian (R60). -/
def elems (w : Nat) : Nat → List Byte → List Nat
  | 0, _ => []
  | n + 1, bs => leVal (bs.take w) :: elems w n (bs.drop w)

/-- The bytes of a list of elements. -/
def elemBytes (w : Nat) (es : List Nat) : List Byte := es.flatMap fun e => leBytes w e

/-- Element i of an array of w-byte elements in a slab of the issuing context. -/
def State.slabElems (s : State) (q w n : Nat) : List Nat :=
  elems w n (cellBytes s.myCore.df (s.myCore.slabAddr s.cur.ctx q) (w * n))

/-- The byte cells of a slab from byte off on. -/
def slabCells (base : Nat) (bs : List Byte) : List Host.Cell :=
  (List.range bs.length).zip bs |>.map fun p => (base + p.1, p.2)

/-! ### Outstanding slab writes (R65, R206) -/

/-- The slabs a matrix command writes, and those it still has to read (R206). -/
def MatCmd.writes (m : MatCmd) : List Nat :=
  match m.op with
  | .finI | .finF | .rd _ _ _ _ => []
  | .cvt true => [m.d]
  | _ => [m.d, m.d + 1]

def MatCmd.reads (m : MatCmd) : List Nat :=
  match m.op with
  | .bf | .t12 => [m.a, m.a + 1, m.b, m.b + 1]
  | .i8 | .t6 | .t8 => [m.a, m.b]
  | .ad => if m.mx.cont then [m.a, m.a + 1, m.b, m.b + 1] else [m.a, m.b]
  | .finI | .finF => [m.d, m.d + 1]
  | .cvt _ => [m.a, m.a + 1]
  | .zero | .rd _ _ _ _ => []

/-- R190, R197: a tile command that fills or reads a pair. -/
def TileCmd.isPair (m : TileCmd) : Bool :=
  match m.op with
  | .ldp | .stM => !((Desc.fmt m.td == 10))
  | _ => false

def TileCmd.slabs (m : TileCmd) : List Nat := if m.isPair then [m.d, m.d + 1] else [m.d]

def TileCmd.writes (m : TileCmd) : List Nat :=
  match m.op with
  | .ld | .ldp | .ldm _ _ | .lds _ => m.slabs
  | _ => []

def TileCmd.reads (m : TileCmd) : List Nat :=
  match m.op with
  | .st | .stM => m.slabs
  | _ => []

def Pend.writes (p : Pend) : List Nat :=
  match p.kind with
  | .slab ds _ _ => ds
  | _ => []

/-- A write to slab q of context x issued before place lim is outstanding. -/
def Core.writerBefore (k : Core) (x : CtxId) (q lim : Nat) : Bool :=
  ((k.ctxAt x).pend.any fun p => decide (p.seq < lim) && p.writes.contains q)
    || (k.tileQ.any fun m => m.x == x && decide (m.seq < lim) && m.writes.contains q)
    || (k.matQ.any fun m => m.x == x && decide (m.seq < lim) && m.writes.contains q)

/-- R206: a tile store or matrix command issued before place lim has still to read slab q. -/
def Core.readerBefore (k : Core) (x : CtxId) (q lim : Nat) : Bool :=
  (k.tileQ.any fun m => m.x == x && decide (m.seq < lim) && m.reads.contains q)
    || (k.matQ.any fun m => m.x == x && decide (m.seq < lim) && m.reads.contains q)

/-- R65: the slabs that no outstanding write names any more are full. -/
def State.refill (s : State) (c : CoreId) (x : CtxId) (qs : List Nat) : State :=
  let k := s.coreAt c
  let v := k.ctxAt x
  s.setCtx c x { v with slabEmpty := v.slabEmpty.filter fun q =>
    !(qs.contains q && !k.writerBefore x q v.seq) }

/-- R219: MFIN waits for writes of its pair. -/
def MatCmd.waitsFor (m : MatCmd) (qs : List Nat) : Bool :=
  match m.op with
  | .finI | .finF => m.reads.any fun q => qs.contains q
  | _ => false

/-- R65: outstanding slab results, in issue order, behind writes that landed in the given slabs and cycles: each lands after them. -/
def delayed : List (Nat × Nat) → List Pend → List Pend
  | _, [] => []
  | landed, p :: rest =>
    let t := landed.foldl (fun n e => if p.writes.contains e.1 then max n (e.2 + 1) else n) 0
    if t = 0 then p :: delayed landed rest
    else
      let p := { p with early := max p.early t, due := max p.due t }
      p :: delayed (landed ++ p.writes.map fun q => (q, p.due)) rest

/-- The cycle in which a result lands that is due in the given one: that cycle, unless it was held at the turn before, or lands
early. -/
def Core.landTime (k : Core) (due : Nat) : Nat := if due < k.seen then k.cycle - 1 else min due (k.cycle - 1)

/-- R219: a write of the context landed in the slabs in cycle t; an MFIN that waited for it starts no earlier. -/
def State.finSaw (s : State) (c : CoreId) (x : CtxId) (qs : List Nat) (t : Nat) : State :=
  if (s.coreAt c).matQ.isEmpty then s
  else s.modCore c fun k => { k with matQ := k.matQ.map fun n =>
    if n.x == x && n.begun.isNone && n.waitsFor qs then { n with issue := max n.issue t } else n }

/-- R65: an engine's write of the context landed in the slabs in cycle t; the vector results behind it land later. -/
def State.slabsLanded (s : State) (c : CoreId) (x : CtxId) (qs : List Nat) (t : Nat) : State :=
  s.modCtx c x fun v => { v with pend := delayed (qs.map fun q => (q, t)) v.pend }

/-- A write repairs the parity of the words it covers (R368, R429). -/
def mendWords (bad : List Nat) (cells : List Host.Cell) : List Nat :=
  bad.filter fun w => !cells.any fun c => c.1 / 4 == w

/-- Bytes land in the deep file and the sidecars of a core. -/
def Core.landCells (k : Core) (data side : List Host.Cell) : Core :=
  { k with df := cellPuts k.df data, side := cellPuts k.side side, badWords := mendWords k.badWords data }

/-- R65, R161: a slab result of the slot being executed: its destinations are empty until it lands. -/
def State.slabWrite (s : State) (ds : List Nat) (data side : List Host.Cell) (lat : Nat) (fp : Bool)
    (fl : Flags) : State :=
  let after := s.me.pend.foldl (fun m p => if p.writes.any fun q => ds.contains q then max m (p.due + 1) else m) 0
  let due := max (s.now + lat) after
  (s.modMe fun v => { v with slabEmpty := v.slabEmpty ++ ds.filter fun q => !v.slabEmpty.contains q }).addPend
    due due fp fl (.slab ds data side)

/-- R368: a detector of the core raises a report, which arrives within n cycles of cycle t; which of them is free (log 9). -/
def State.raiseReport (s : State) (c : CoreId) (x : CtxId) (t n : Nat) (code : Byte) (addr : Word) (synd : BitVec 16) : State :=
  let (w, s) := s.freshWord
  s.modCore c fun k =>
    { k with reports := k.reports ++ [⟨t + 1 + w.toNat % n, code, x, (k.ctxAt x).region, addr, synd⟩] }

/-- The span of the first n bytes of each of some slabs. -/
def slabSpans (n : Nat) (qs : List Nat) : List (Nat × Nat) := qs.map fun q => (2048 * q, n)

/-- R368: a word of a context's partition meets one of the spans of bytes. -/
def Core.spanHolds (k : Core) (x : CtxId) (spans : List (Nat × Nat)) (w : Nat) : Bool :=
  spans.any fun p => decide (4 * w < k.slabAddr x 0 + p.1 + p.2) && decide (k.slabAddr x 0 + p.1 < 4 * w + 4)

/-- R368, R429: a read of spans of a partition, each a byte offset and a length, that covers a word of wrong parity brings a report
of the deep-file detector within 4 cycles. -/
def State.parityRead (s : State) (c : CoreId) (x : CtxId) (spans : List (Nat × Nat)) : State :=
  let k := s.coreAt c
  (k.badWords.filter (k.spanHolds x spans)).foldl (fun s w => s.raiseReport c x k.cycle 4 0x01 (BitVec.ofNat 64 (w / 512)) 0) s

/-! ### Landing (R65, R66, R68, R120) -/

/-- The scalar register takes the value; it stays empty while a later result for it is outstanding. -/
def Regs.landS (r : Regs) (sh : Bool) (n : SReg) (v : Word) (more : Bool) : Regs :=
  let r' := r.putAt sh n v
  if more then { r' with sEmpty := r.sEmpty, shEmpty := r.shEmpty } else r'

/-- R68, R120: a scalar result lands in cycle t: the register, its flags, and, when it was issued before the checkpoint,
the checkpoint too. -/
def Ctx.landScalar (v : Ctx) (t : Nat) (p : Pend) (rest : List Pend) (sh : Bool) (n : SReg) (w : Word) : Ctx :=
  let more := { v with pend := rest }.sregPending sh n
  let moreOld := { v with pend := rest.filter fun q => q.region != v.region }.sregPending sh n
  let r := (v.r.landS sh n w more).raiseFlags p.addr p.pos p.flags true (t, p.seq)
  let ck := if p.region = v.region && v.opened then v.ckpt
    else (v.ckpt.landS sh n w moreOld).raiseFlags p.addr p.pos p.flags true (t, p.seq)
  { v with pend := rest, r := r, ckpt := ck }

/-- The keys that the gate does not serve for an access at place seq of the program order (R142). -/
def Ctx.ungated (v : Ctx) (seq : Nat) (keys : List (Nat × PageKind)) : List (Nat × PageKind) :=
  keys.filter fun k => (gateRead v.gate k.1 seq).isNone

/-- The lines of untracked keys, with their lock classes. -/
def untrackedLines (keys : List (Nat × PageKind)) : List (Nat × BitVec 4) :=
  distinct ((keys.filter fun k => k.2.isUntracked).map fun k => (lineOf k.1, k.2.lclass))

/-- The untracked lines that an access reads (R260). -/
def State.readLines (s : State) (c : CoreId) (x : CtxId) (scalar : Bool) :
    List (Nat × BitVec 4) → List (Nat × BitVec 512) × State
  | [] => ([], s)
  | l :: rest =>
    let (d, s) := s.readUntracked c x scalar l.2 l.1
    let (ds, s) := s.readLines c x scalar rest
    ((l.1, d) :: ds, s)

/-- The bytes at keys, those of untracked lines from the given lines. -/
def State.takeBytes (s : State) (g : List GateByte) (seq : Nat) (ut : List (Nat × BitVec 512)) :
    List (Nat × PageKind) → List Byte × State
  | [] => ([], s)
  | k :: rest =>
    let (b, s) : Byte × State :=
      match gateRead g k.1 seq with
      | some b => (b, s)
      | none =>
        match k.2 with
        | .remote => ((s.freshWord.1).extractLsb' 0 8, s.freshWord.2)
        | .untracked _ => (((assoc ut (lineOf k.1)).getD 0).extractLsb' (8 * (k.1 % 64)) 8, s)
        | _ => (cellGet s.mem k.1, s)
    let (bs, s) := s.takeBytes g seq ut rest
    (b :: bs, s)

/-- The bytes at keys for an access at place seq of the program order: from the gate where the region holds them,
from a copy of an untracked line (R260), and from memory otherwise (R142, R275); another device's bytes are free values (R289,
log 14), and its lines are charged (R328). scalar tells of an access that the L1D serves. -/
def State.loadBytes (s : State) (c : CoreId) (x : CtxId) (scalar : Bool) (seq : Nat) (keys : List (Nat × PageKind)) :
    List Byte × State :=
  let v := s.ctxAt c x
  let rest := v.ungated seq keys
  let far := (remoteFirsts rest).length
  let s := if far = 0 then s else s.debit c x 0 (64 * far) 0
  let (ut, s) := s.readLines c x scalar (untrackedLines rest)
  (s.endUntracked c x (untrackedLines rest)).takeBytes v.gate seq ut keys

/-- The value of a load at its landing (R142). -/
def State.loadValue (s : State) (c : CoreId) (x : CtxId) (keys : List (Nat × PageKind)) (sx : Bool) (seq : Nat) :
    Word × State :=
  let (bs, s) := s.loadBytes c x true seq keys
  (extendBytes bs sx, s)

/-- R396, R409: of the first bytes of lines of other devices, the first one that lies on a device out of reach, or that its device
refuses, for the reasons R396 gives there (log 14). -/
def State.refusedAt (s : State) : List Nat → Option Nat × State
  | [] => (none, s)
  | k :: rest =>
    if !s.reachable (remoteDev k).toNat || (s.freshBool).1 then (some (remoteAddr k), (s.freshBool).2)
    else (s.freshBool).2.refusedAt rest

/-- R396: the first byte of another device that is refused. -/
def State.remoteRefused (s : State) (keys : List (Nat × PageKind)) : Option Nat × State := s.refusedAt (remoteFirsts keys)

/-- R403: the first line of tensor addresses that another device returns with its poison indication (log 14). -/
def State.poisonAt (s : State) : List Nat → Option Nat × State
  | [] => (none, s)
  | k :: rest => if (s.freshBool).1 then (some (remoteAddr k / 64), (s.freshBool).2) else (s.freshBool).2.poisonAt rest

/-- R143: an earlier tile store of the context that writes one of the bytes is still to enter the gate. -/
def State.storeBefore (s : State) (c : CoreId) (x : CtxId) (lim : Nat) (keys : List (Nat × PageKind)) : Bool :=
  (s.coreAt c).tileQ.any fun m => m.x == x && decide (m.seq < lim) && m.isStore &&
    (match s.tileKeys m with
     | .ok rs => (rowsKeys rs).any fun k => keys.any fun l => l.1 == k.1
     | .error _ => true)

/-- Whether an outstanding result has landed by now, and the state after the tokens it lacks are asked for. A result that
lands in one cycle is seen from the next one on (R66). It lands at its bound, or with early set as soon as it may. -/
def State.canLand (s : State) (c : CoreId) (x : CtxId) (p : Pend) (early : Bool) : Bool × State :=
  let k := s.coreAt c
  if k.cycle ≤ (if early then p.early else p.due) then (false, s)
  else
    match p.kind with
    | .sreg sh n _ =>
      (!{ k.ctxAt x with pend := (k.ctxAt x).pend.filter fun q => decide (q.seq < p.seq) }.sregPending sh n, s)
    | .slab ds _ _ => (ds.all fun q => !k.writerBefore x q p.seq && !k.readerBefore x q p.seq, s)
    | .load sh n keys _ seq =>
      if p.isOrdered || s.storeBefore c x seq keys
          || { k.ctxAt x with pend := (k.ctxAt x).pend.filter fun q => decide (q.seq < p.seq) }.sregPending sh n then
        (false, s)
      else
        let (ok, s) := s.pinAll c x .scalar true (trackedLines ((k.ctxAt x).ungated seq keys))
        let (here, s) := s.fetchAllUntracked c x true (untrackedLines ((k.ctxAt x).ungated seq keys))
        (ok && here, s)
    | .mrd _ _ => (false, s)

/-- R403: a poisoned line among the bytes an access consumes. -/
def State.poisonedKey (s : State) (keys : List (Nat × PageKind)) : Option Nat :=
  (trackedLines keys ++ (untrackedLines keys).map (·.1)).find?
    fun l => s.coh.poison.contains l

/-- What an access meets when it consumes its bytes: poison, here or at another device (R403), or a refusal there (R396). -/
inductive Consumed where
  | good
  | poisoned (line : Nat)
  | refused (addr : Nat)
deriving DecidableEq, Repr

/-- R396, R403: what an access of the bytes at keys meets, of which the gate does not serve those at rest. -/
def State.consume (s : State) (keys rest : List (Nat × PageKind)) : Consumed × State :=
  match s.poisonedKey keys with
  | some l => (.poisoned l, s)
  | none =>
    match s.remoteRefused rest with
    | (some a, s) => (.refused a, s)
    | (none, s) =>
      match s.poisonAt (remoteFirsts rest) with
      | (some l, s) => (.poisoned l, s)
      | (none, s) => (.good, s)

/-- A landed result: a scalar value, slab bytes or a load; a load of a poisoned line rolls back (R403). -/
def State.landPend (s : State) (c : CoreId) (x : CtxId) (p : Pend) : State :=
  let v := s.ctxAt c x
  let t := (s.coreAt c).landTime p.due
  let rest := v.pend.filter fun q => q.seq != p.seq
  match p.kind with
  | .sreg sh n w => (s.setCtx c x (v.landScalar t p rest sh n w)).advanceDrain c x
  | .slab ds data side =>
    let s := s.modCore c fun k => k.landCells data side
    let s := s.modCtx c x fun v => { v with pend := rest, r := v.r.raiseFlags p.addr p.pos p.flags true (t, p.seq) }
    ((s.finSaw c x ds t).refill c x ds).advanceDrain c x
  | .load sh n keys sx seq =>
    let lines := trackedLines (v.ungated seq keys)
    match s.consume keys (v.ungated seq keys) with
    | (.poisoned l, s) => s.poisonHit c x l
    | (.refused addr, s) => s.trapRollback c x .tileTable p.pos (BitVec.ofNat 64 addr)
    | (.good, s) =>
      let s := lines.foldl (fun s l => s.touchL1d c l) ((s.recordBytes c x keys).clearPort c lines)
      let (w, s) := s.loadValue c x keys sx seq
      (s.modCtx c x fun v => v.landScalar t p rest sh n w).advanceDrain c x
  | .mrd _ _ => s

/-- The first outstanding result of a context, in issue order, that can land; loads that lack tokens ask for
them on the way. -/
def State.landFirst (s : State) (c : CoreId) (x : CtxId) (early : Bool) : List Pend → Bool × State
  | [] => (false, s)
  | p :: rest =>
    match s.canLand c x p early with
    | (true, s) => (true, s.landPend c x p)
    | (false, s) => s.landFirst c x early rest

/-- R65: results that are due land, at most n of them. -/
def State.landDue (s : State) (c : CoreId) (x : CtxId) : Nat → State
  | 0 => s
  | n + 1 =>
    match s.landFirst c x false (s.ctxAt c x).pend with
    | (true, s) => s.landDue c x n
    | (false, s) => s

end Sys2Proof.Machine
end

