-- ==== Sys2Proof/Machine/Scalar.lean ====
section
/-! DEFINITION. Machine/Scalar.lean: the S class (R124 to R156): arithmetic, logic, bit fields, immediate
forms, predicates, loads and stores, the spill store, branches and hardware loops. -/

namespace Sys2Proof.Machine

/-! ### Shared forms -/

/-- OP sD, sA, sB with the given latency (R127, R129). -/
def alu3 (s : State) (d a b : SReg) (ma mb : Bool) (lat : Nat) (f : Word → Word → Word) : State :=
  s.readSS a b ma mb fun x y => s.regWrite d (f x y) lat

/-- OP sD, sA with latency 1 (R130). -/
def alu2 (s : State) (d a : SReg) (ma : Bool) (f : Word → Word) : State :=
  s.readS a ma fun x => s.regWrite d (f x) 1

/-- R81, R85: the value of an immediate. -/
def immVal (i : Imm) : Word :=
  match i with
  | .short v => v.signExtend 64
  | .long w => w.signExtend 64

/-- OP sD, sA, imm; A reads in block mode (R134). -/
def aluI (s : State) (d a : SReg) (i : Imm) (f : Word → Word → Word) : State :=
  s.readS a false fun x => s.regWrite d (f x (immVal i)) 1

/-- The division group: 20 cycles, DZ for a zero divisor (R126, R128). -/
def divGroup (s : State) (d a b : SReg) (ma mb : Bool) (f : Word → Word → Word) : State :=
  s.readSS a b ma mb fun x y => s.regWriteF d (f x y) 20 true (if y = 0 then Flags.dz else 0)

/-! ### Results (R127 to R133) -/

/-- R127: floor(i(x) * i(y) / 2^64) mod 2^64. -/
def mulhWord (x y : Word) : Word := BitVec.ofInt 64 (x.toInt * y.toInt / 2 ^ 64)

/-- R127: floor(u(x) * u(y) / 2^64). -/
def mulhuWord (x y : Word) : Word := BitVec.ofNat 64 (x.toNat * y.toNat / 2 ^ 64)

/-- R127, R128: quotient truncated toward zero; all ones for a zero divisor. -/
def divWord (x y : Word) : Word := if y = 0 then BitVec.allOnes 64 else BitVec.ofInt 64 (Int.tdiv x.toInt y.toInt)

/-- R127, R128. -/
def divuWord (x y : Word) : Word := if y = 0 then BitVec.allOnes 64 else BitVec.ofNat 64 (x.toNat / y.toNat)

/-- R127, R128: i(x) - i(y) * quotient; x for a zero divisor. -/
def remWord (x y : Word) : Word := if y = 0 then x else BitVec.ofInt 64 (x.toInt - y.toInt * Int.tdiv x.toInt y.toInt)

/-- R127, R128. -/
def remuWord (x y : Word) : Word :=
  if y = 0 then x else BitVec.ofNat 64 (x.toNat - y.toNat * (x.toNat / y.toNat))

/-- R129: shift amounts are bits [5:0]. -/
def shlWord (x y : Word) : Word := x <<< (y.toNat % 64)
def shrWord (x y : Word) : Word := x >>> (y.toNat % 64)
def sraWord (x y : Word) : Word := x.sshiftRight (y.toNat % 64)

/-- R129. -/
def minWord (x y : Word) : Word := if x.toInt ≤ y.toInt then x else y
def maxWord (x y : Word) : Word := if x.toInt ≤ y.toInt then y else x
def minuWord (x y : Word) : Word := if x.toNat ≤ y.toNat then x else y
def maxuWord (x y : Word) : Word := if x.toNat ≤ y.toNat then y else x

/-- R130: zero bits above the most significant one bit; 64 for zero. -/
def clzWord (x : Word) : Word := BitVec.ofNat 64 (if x = 0 then 64 else 63 - Nat.log2 x.toNat)

/-- R130: zero bits below the least significant one bit; 64 for zero. -/
def ctzWord (x : Word) : Word :=
  BitVec.ofNat 64 (((List.range 64).find? fun i => x.getLsbD i).getD 64)

/-- R130: the number of one bits. -/
def popcWord (x : Word) : Word := BitVec.ofNat 64 ((List.range 64).filter fun i => x.getLsbD i).length

/-- R131: the width n is encoded as n - 1. -/
def sextWord (x : Word) (n : BitVec 6) : Word := BitVec.ofInt 64 (signedOf (n.toNat + 1) x.toNat)
def zextWord (x : Word) (n : BitVec 6) : Word := BitVec.ofNat 64 (x.toNat % 2 ^ (n.toNat + 1))

/-- R132: BFX. -/
def bfxWord (x y : Word) : Word :=
  BitVec.ofNat 64 (x.toNat / 2 ^ bits y.toNat 5 0 % 2 ^ min (bits y.toNat 14 8) 64)

/-- R132: BFI inserts at most 48 bits of sB[63:16]. -/
def bfiWord (x y : Word) : Word :=
  let pos := bits y.toNat 5 0
  let mask : Word := BitVec.ofNat 64 ((2 ^ min (bits y.toNat 14 8) 48 - 1) * 2 ^ pos)
  (x &&& ~~~mask) ||| (BitVec.ofNat 64 (bits y.toNat 63 16 * 2 ^ pos) &&& mask)

/-- R133. -/
def selWord (x y : Word) : Word := if y = 0 then 0 else x

/-! ### Meanings: arithmetic and logic -/

/-- R133: no effect except its issue cycle. -/
def execNop (s : State) : Out := .next s
def execAdd (d a b : SReg) (ma mb : Bool) (s : State) : Out := .next (alu3 s d a b ma mb 1 (· + ·))
def execSub (d a b : SReg) (ma mb : Bool) (s : State) : Out := .next (alu3 s d a b ma mb 1 (· - ·))
def execMul (d a b : SReg) (ma mb : Bool) (s : State) : Out := .next (alu3 s d a b ma mb 3 (· * ·))
def execMulh (d a b : SReg) (ma mb : Bool) (s : State) : Out := .next (alu3 s d a b ma mb 3 mulhWord)
def execMulhu (d a b : SReg) (ma mb : Bool) (s : State) : Out := .next (alu3 s d a b ma mb 3 mulhuWord)
def execDiv (d a b : SReg) (ma mb : Bool) (s : State) : Out := .next (divGroup s d a b ma mb divWord)
def execDivu (d a b : SReg) (ma mb : Bool) (s : State) : Out := .next (divGroup s d a b ma mb divuWord)
def execRem (d a b : SReg) (ma mb : Bool) (s : State) : Out := .next (divGroup s d a b ma mb remWord)
def execRemu (d a b : SReg) (ma mb : Bool) (s : State) : Out := .next (divGroup s d a b ma mb remuWord)
def execAnd (d a b : SReg) (ma mb : Bool) (s : State) : Out := .next (alu3 s d a b ma mb 1 (· &&& ·))
def execOr (d a b : SReg) (ma mb : Bool) (s : State) : Out := .next (alu3 s d a b ma mb 1 (· ||| ·))
def execXor (d a b : SReg) (ma mb : Bool) (s : State) : Out := .next (alu3 s d a b ma mb 1 (· ^^^ ·))
def execShl (d a b : SReg) (ma mb : Bool) (s : State) : Out := .next (alu3 s d a b ma mb 1 shlWord)
def execShr (d a b : SReg) (ma mb : Bool) (s : State) : Out := .next (alu3 s d a b ma mb 1 shrWord)
def execSra (d a b : SReg) (ma mb : Bool) (s : State) : Out := .next (alu3 s d a b ma mb 1 sraWord)
def execMin (d a b : SReg) (ma mb : Bool) (s : State) : Out := .next (alu3 s d a b ma mb 1 minWord)
def execMax (d a b : SReg) (ma mb : Bool) (s : State) : Out := .next (alu3 s d a b ma mb 1 maxWord)
def execMinu (d a b : SReg) (ma mb : Bool) (s : State) : Out := .next (alu3 s d a b ma mb 1 minuWord)
def execMaxu (d a b : SReg) (ma mb : Bool) (s : State) : Out := .next (alu3 s d a b ma mb 1 maxuWord)
def execClz (d a : SReg) (ma : Bool) (s : State) : Out := .next (alu2 s d a ma clzWord)
def execCtz (d a : SReg) (ma : Bool) (s : State) : Out := .next (alu2 s d a ma ctzWord)
def execPopc (d a : SReg) (ma : Bool) (s : State) : Out := .next (alu2 s d a ma popcWord)
def execSext (d a : SReg) (n : BitVec 6) (ma : Bool) (s : State) : Out := .next (alu2 s d a ma fun x => sextWord x n)
def execZext (d a : SReg) (n : BitVec 6) (ma : Bool) (s : State) : Out := .next (alu2 s d a ma fun x => zextWord x n)
def execBfx (d a b : SReg) (ma mb : Bool) (s : State) : Out := .next (alu3 s d a b ma mb 1 bfxWord)
def execBfi (d a b : SReg) (ma mb : Bool) (s : State) : Out := .next (alu3 s d a b ma mb 1 bfiWord)
def execSel (d a b : SReg) (ma mb : Bool) (s : State) : Out := .next (alu3 s d a b ma mb 1 selWord)
def execMov (d a : SReg) (ma : Bool) (s : State) : Out := .next (alu2 s d a ma fun x => x)

/-! ### Meanings: immediate forms (R134, R135) -/

def execAddi (d a : SReg) (imm : Imm) (s : State) : Out := .next (aluI s d a imm (· + ·))
def execAndi (d a : SReg) (imm : Imm) (s : State) : Out := .next (aluI s d a imm (· &&& ·))
def execOri (d a : SReg) (imm : Imm) (s : State) : Out := .next (aluI s d a imm (· ||| ·))
def execXori (d a : SReg) (imm : Imm) (s : State) : Out := .next (aluI s d a imm (· ^^^ ·))
def execShli (d a : SReg) (amt : BitVec 6) (_long : Bool) (s : State) : Out :=
  .next (alu2 s d a false fun x => shlWord x (amt.setWidth 64))
def execShri (d a : SReg) (amt : BitVec 6) (_long : Bool) (s : State) : Out :=
  .next (alu2 s d a false fun x => shrWord x (amt.setWidth 64))
def execSrai (d a : SReg) (amt : BitVec 6) (_long : Bool) (s : State) : Out :=
  .next (alu2 s d a false fun x => sraWord x (amt.setWidth 64))

/-- R135: the written value. -/
def immWideVal (i : ImmWide) : Word :=
  match i with
  | .short v => v.signExtend 64
  | .long w => w.signExtend 64
  | .wide w => w

def execMovi (d : SReg) (imm : ImmWide) (s : State) : Out := .next (s.regWrite d (immWideVal imm) 1)

/-! ### Meanings: predicates (R136 to R139) -/

/-- R136: the condition, unsigned where U is set; EQ and NE ignore U. -/
def condHolds (cc : Cond) (u : Bool) (x y : Word) : Bool :=
  match cc with
  | .eq => decide (x = y)
  | .ne => decide (x ≠ y)
  | .lt => if u then decide (x.toNat < y.toNat) else decide (x.toInt < y.toInt)
  | .le => if u then decide (x.toNat ≤ y.toNat) else decide (x.toInt ≤ y.toInt)

def execPcmp (d : PReg) (cc : Cond) (a b : SReg) (ma mb : Bool) (u : Option Bool) (s : State) : Out :=
  .next (s.readSS a b ma mb fun x y => s.predWrite d (condHolds cc (u.getD false) x y))

/-- R137: U and the second operand of PCMPI. -/
def cmpImmVal (i : CmpImm) : Bool × Word :=
  match i with
  | .short v => (false, v.signExtend 64)
  | .word u v => (u, v.signExtend 64)

def execPcmpi (d : PReg) (cc : Cond) (a : SReg) (imm : CmpImm) (s : State) : Out :=
  .next (s.readS a false fun x => s.predWrite d (condHolds cc (cmpImmVal imm).1 x (cmpImmVal imm).2))

/-- OP pD, pA, pB (R138). -/
def pred3 (s : State) (d a b : PReg) (f : Bool → Bool → Bool) : State :=
  s.predWrite d (f (s.me.r.getP a) (s.me.r.getP b))

def execPand (d a b : PReg) (s : State) : Out := .next (pred3 s d a b fun x y => x && y)
def execPor (d a b : PReg) (s : State) : Out := .next (pred3 s d a b fun x y => x || y)
def execPxor (d a b : PReg) (s : State) : Out := .next (pred3 s d a b xor)
def execPandn (d a b : PReg) (s : State) : Out := .next (pred3 s d a b fun x y => x && !y)

/-- R139: bit i is pi; bit 0 reads 1. -/
def ptsWord (r : Regs) : Word := (r.p ||| 1).setWidth 64

def execPts (d : SReg) (s : State) : Out := .next (s.regWrite d (ptsWord s.me.r) 1)

/-- R139: PFS counts as a write of every predicate. -/
def execPfs (a : SReg) (ma : Bool) (s : State) : Out :=
  .next (s.readS a ma fun x =>
    (s.note 0xC0 (s.me.r.p.setWidth 64)).modMe fun c => { c with r := { c.r with p := x.setWidth 16 ||| 1 } }.touchAllP)

/-! ### Loads and stores (R140 to R144) -/

/-- R140: bytes of an access. -/
def sizeBytes (size : BitVec 2) : Nat := 2 ^ size.toNat

/-- R141: the tensor address of each byte of an access. -/
def accessAddrs (base : Word) (off : Option Word32) (n : Nat) : List Nat :=
  (List.range n).map fun i => tensorByte base.toNat ((off.map (·.toInt)).getD 0) i

/-- R141: natural alignment of an n-byte access. -/
def aligned (base : Word) (off : Option Word32) (n : Nat) : Bool :=
  tensorByte base.toNat ((off.map (·.toInt)).getD 0) 0 % n = 0

/-- R269, R346: the link hops to another device. -/
def State.hopsTo (s : State) (dev : Nat) : Nat :=
  match s.dev.routes.find? fun r => r.1.toNat == dev with
  | some r => r.2.2.toNat
  | none => 4

/-- R269: the bound of the path of one line, of which pa is a byte, for a core; of another device's for its OPEN class. -/
def State.pathBound (s : State) (c : CoreId) (scalar : Bool) (k : Nat × PageKind) : Nat :=
  let line := lineOf k.1
  let l := s.lineAt line
  let far := (s.coreAt c).lpddr + if !l.home.owner && l.onDie (!dieOf c) then 220 else 0
  match k.2 with
  | .remote => 2 * s.hopsTo (remoteDev k.1).toNat * 700 + 3400
  | .ordered => s.orderedBound c k.1
  | .untracked _ =>
    if scalar && (s.utL1d c line).isSome then 4
    else if (s.utSlice (dieOf c) line).isSome then s.hitBound c line
    else if s.rangeOf k.1 = .host then 6800 else (s.coreAt c).lpddr
  | .uncached => (s.coreAt c).lpddr
  | .tracked _ =>
    if scalar && l.coreData c then 4
    else if (l.sliceHold (dieOf c)).valid && l.sliceServes (dieOf c) .rd then s.hitBound c line
    else if (l.sliceHold (!dieOf c)).owner then s.hitBound c line + 220
    else far

/-- R126, R269: the latency bound of a load whose translation has the bound xlat: 4 cycles where every byte comes from the gate
or the L1D, the translation bound and the path's bound otherwise, plus 1 where the access spans two lines. -/
def State.loadBound (s : State) (c : CoreId) (x : CtxId) (xlat : Nat) (keys : List (Nat × PageKind)) : Nat :=
  let v := s.ctxAt c x
  let far := ((v.ungated v.seq keys).map (s.pathBound c true)).filter fun n => decide (4 < n)
  (if far.isEmpty then 4 else xlat + far.foldl max 0)
    + boolNat (decide (1 < (distinct (keys.map fun kk => lineOf kk.1)).length))

/-- R399: the tracked lines that a guarded attempt has to acquire before it may touch them. -/
def State.guardMissing (s : State) (c : CoreId) (x : CtxId) (lines : List Nat) : List Nat :=
  let v := s.ctxAt c x
  if !v.guarded then []
  else
    let held := lines.filter fun l => v.guardLines.contains l
    let fresh := (lines.filter fun l => !v.guardLines.contains l).take (8 - v.guardLines.length)
    (held ++ fresh).filter fun l => !s.guardActive (rqOf c x) l

/-- R301, R328, R329, R399: the request by which a guarded attempt acquires a line, in place of one that is outstanding; it waits
for a place in the port like any other. -/
def State.acquireLine (s : State) (c : CoreId) (x : CtxId) (line : Nat) : State :=
  let r : Req := ⟨line, rqOf c x, .rdx, BitVec.allOnes 64, true⟩
  let s := match s.outOf r.rq line with
    | some o => s.endRequest o
    | none => s
  if s.portFull c line then s
  else
    (((s.addOut c x r 0 .scalar true).debit c x 0 0 40).modCtx c x fun v => { v with guardLines := v.guardLines ++ [line] }).sendMsg
      (.preq r)

/-- R399: a guarded attempt acquires the lines that it may not touch yet; true when none is missing. -/
def State.acquire (s : State) (c : CoreId) (x : CtxId) (lines : List Nat) : Bool × State :=
  let miss := s.guardMissing c x lines
  let fresh := miss.filter fun l => !(s.ctxAt c x).guardLines.contains l
  (miss.isEmpty, fresh.foldl (fun s l => s.acquireLine c x l) s)

/-- R142, R143, R144: the load of the bytes at keys, which the given addresses name. -/
def State.issueLoad (s : State) (d : SReg) (sx : Bool) (addrs : List Nat) (keys : List (Nat × PageKind)) : State :=
  let c := s.cur.core
  let x := s.cur.ctx
  let seq := s.me.seq
  let sh := s.me.r.isShadow d
  let (xlat, s) := s.lookupAll c addrs
  let cyc := s.myCore.cycle
  let after := s.me.sregAfter sh d
  let due := max (cyc + s.loadBound c x xlat keys) after
  let rest := s.me.ungated seq keys
  let s := ((s.markLines rest).pinAll c x .scalar true (trackedLines rest)).2
  let s := (s.fetchAllUntracked c x true (untrackedLines rest)).2
  (s.modRegs fun r => r.markEmpty d).addPend (max (cyc + 4) after) due false 0 (.load sh d keys sx seq)

/-- R39: the space rule after an access of the slot being executed; an overflow discards its bundle. -/
def State.spaceSlot (s : State) : State :=
  let region := s.me.region
  let s := s.spaceRule s.cur.core s.cur.ctx
  if s.me.region = region then s else s.modCur fun u => { u with stop := .left }

/-- The tile-table fault of an access of the slot being executed (R141, R396). -/
def State.faultAt (s : State) (a : Nat) : State :=
  (s.trapRollback s.cur.core s.cur.ctx .tileTable s.cur.pos (BitVec.ofNat 64 a)).endTrapped

def State.hasOrdered (keys : List (Nat × PageKind)) : Bool := keys.any fun k => k.2 == .ordered

/-- R39, R277, R399: a scalar access that cannot be made yet: a guarded attempt's line is still to be acquired, a store's line
has lent its token, or a confirmed borrower has the space. -/
def State.accessWaits (s : State) (store : Bool) (keys : List (Nat × PageKind)) : Bool :=
  !(s.guardMissing s.cur.core s.cur.ctx (trackedLines keys)).isEmpty || (store && s.lentAny s.cur.core (trackedLines keys))
    || s.spaceWaits s.cur.core s.cur.ctx store keys

/-- LD (R140 to R144). -/
def execLd (d a : SReg) (size : BitVec 2) (sx ma : Bool) (off : Option Word32) (s : State) : Out :=
  .next (s.readS a ma fun base =>
    let addrs := accessAddrs base off (sizeBytes size)
    match s.keysOf false addrs with
    | .error e => s.faultAt e
    | .ok keys =>
      if State.hasOrdered keys && !aligned base off (sizeBytes size) then s.trapSlot .illegalOperand
      else if s.accessWaits false keys then s.block
      else (s.issueLoad d sx addrs keys).spaceSlot)

/-- GateStore of R92 for the bytes at keys: gated bytes with their place in program order, the record of R40, and the lines a
scalar store wrote (R305). -/
def State.gateStore (s : State) (c : CoreId) (x : CtxId) (seq : Nat) (scalar : Bool)
    (keys : List (Nat × PageKind)) (bs : List Byte) : State :=
  let s := ((s.markLines keys).pinAll c x (if scalar then .scalar else .engine) false (trackedLines keys)).2
  let s := s.modCtx c x fun v =>
    { v with gate := v.gate ++ (keys.zip bs).map fun p => ⟨p.1.1, seq, p.2⟩
             scalarLines := if scalar then distinct (v.scalarLines ++ trackedLines keys) else v.scalarLines }
  s.recordBytes c x keys

/-- ST (R140 to R144). A store that another device refuses is told so under R396; the model lets the refusal come at the store
(DESIGN CHOICE, log 40). -/
def execSt (a b : SReg) (size : BitVec 2) (ma mb : Bool) (off : Option Word32) (s : State) : Out :=
  .next (s.readSS a b ma mb fun base data =>
    let n := sizeBytes size
    let addrs := accessAddrs base off n
    match s.keysOf true addrs with
    | .error e => s.faultAt e
    | .ok keys =>
      if State.hasOrdered keys && !aligned base off n then s.trapSlot .illegalOperand
      else if s.accessWaits true keys then s.block
      else
        let s := (s.lookupAll s.cur.core addrs).2
        if State.hasOrdered keys then
          s.modMe fun v =>
            { v with soStores := v.soStores ++ [⟨v.seq, (keys.map (·.1)).headD 0, n, BitVec.ofNat 64 (data.toNat % 2 ^ (8 * n))⟩]
                     seq := v.seq + 1 }
        else
          let seq := s.me.seq
          match s.remoteRefused keys with
          | (some a, s) => s.faultAt a
          | (none, s) =>
            ((s.modMe fun v => { v with seq := seq + 1 }).gateStore s.cur.core s.cur.ctx seq true keys (leBytes n data.toNat)).spaceSlot)

/-! ### Spill store (R145) -/

/-- R145: the byte address of a spill access. -/
def spillAddr (base : Word) (n : BitVec 6) : Word := base + BitVec.ofNat 64 (8 * n.toNat)

def spillOk (q : Word) : Bool := decide (q.toNat % 8 = 0) && decide (q.toNat + 7 ≤ 4095)

def execLdsp (d a : SReg) (n : BitVec 6) (ma : Bool) (s : State) : Out :=
  .next (s.readS a ma fun base =>
    s.check (spillOk (spillAddr base n)) .illegalOperand
      (s.regWrite d (BitVec.ofNat 64 (cellNat s.me.spill (spillAddr base n).toNat 8)) 2))

def execStsp (n : BitVec 6) (a b : SReg) (ma mb : Bool) (s : State) : Out :=
  .next (s.readSS a b ma mb fun base data =>
    s.check (spillOk (spillAddr base n)) .illegalOperand
      (s.modMe fun v => { v with spill := cellWrite v.spill (spillAddr base n).toNat (leBytes 8 data.toNat) }))

/-! ### Branches (R146 to R148, R153) -/

/-- R146: the target of a register branch: the active half, offset sA[14:0]. -/
def regTarget (addr : BitVec 16) (x : Word) : BitVec 16 :=
  BitVec.ofNat 16 (addr.toNat / 32768 * 32768 + x.toNat % 32768)

/-- R146: the displacement of BRI and CALLI: the 8-bit immediate times 4, or the word. -/
def branchOff (i : Imm) : Int :=
  match i with
  | .short v => v.toInt * 4
  | .long w => w.toInt

/-- R146: (pc_off + off) mod 2^15 in the active half. -/
def immTarget (addr : BitVec 16) (i : Imm) : BitVec 16 :=
  BitVec.ofNat 16 (addr.toNat / 32768 * 32768 + wrapTo 15 ((addr.toNat % 32768 : Nat) + branchOff i))

/-- R146, R147, R153: a taken branch costs one stall cycle; pop says whether it leaves loop levels. -/
def State.take (s : State) (t : BitVec 16) (pop : Bool) (k : State → State) : State :=
  if s.inLastBundle then s.trapSlot .illegalOperand
  else
    let s := k s
    let s := if pop then s.modRegs fun r => { r with loops := popLevels t r.loops } else s
    (s.modCur fun u => { u with br := some t }).stall 1

/-- R146: a register target must have bits [1:0] zero. -/
def State.takeReg (s : State) (a : SReg) (ma : Bool) (pop : Bool) (k : State → State) : State :=
  s.readS a ma fun x =>
    s.check (decide (x.toNat % 4 = 0)) .illegalOperand (s.take (regTarget s.cur.addr x) pop k)

/-- R146: the link is the address of the next sequential bundle. -/
def State.link (s : State) (d : SReg) : State := s.regWrite d (s.cur.next.setWidth 64) 1

def execBr (a : SReg) (ma : Bool) (s : State) : Out := .next (s.takeReg a ma true fun s => s)
def execBri (off : Imm) (s : State) : Out := .next (s.take (immTarget s.cur.addr off) true fun s => s)
def execCall (d a : SReg) (ma : Bool) (s : State) : Out := .next (s.takeReg a ma false fun s => s.link d)
def execCalli (d : SReg) (off : Imm) (s : State) : Out :=
  .next (s.take (immTarget s.cur.addr off) false fun s => s.link d)
def execRet (a : SReg) (ma : Bool) (s : State) : Out := .next (s.takeReg a ma true fun s => s)

/-- R148: the other half, offset sA[14:0]. -/
def swapTarget (addr : BitVec 16) (x : Word) : BitVec 16 :=
  BitVec.ofNat 16 ((1 - addr.toNat / 32768) * 32768 + x.toNat % 32768)

/-- BSWAP (R148, R153): the other half, every loop level popped, 3 stall cycles. -/
def execBswap (a : SReg) (ma : Bool) (s : State) : Out :=
  .next (s.readS a ma fun x =>
    s.check (decide (x.toNat % 4 = 0) && !s.inLastBundle) .illegalOperand
      (((s.modRegs fun r => { r with loops := [] }).modCur fun u =>
        { u with br := some (swapTarget s.cur.addr x) }).stall 3))

/-! ### Hardware loops (R150 to R152) -/

/-- R150: the body length in words. -/
def loopWords (l : LoopLen) : Nat :=
  match l with
  | .short n => n.toNat
  | .long n => n.toNat

/-- LOOP and LOOPP at issue (R150 to R152). The end address of a body that reaches or passes the end of its half wraps as
sequential fetch does, which R150 does not say (DEDUCED from R125, log 31). -/
def State.startLoop (s : State) (a : SReg) (ma : Bool) (st : BitVec 3) (len : LoopLen) (pipe : Bool) : State :=
  s.readS a ma fun n =>
    let stop := seqPc s.cur.next (4 * loopWords len) -- wraps within the half (DEDUCED, log 31)
    s.check (decide (n.toNat < 2 ^ 32) && decide (s.me.r.loops.length < 4)) .illegalOperand
      (if n = 0 then (s.modCur fun u => { u with br := some stop }).stall 1
      else
        let lvl : LoopLevel :=
          { start := s.cur.next, stop := stop, remaining := n.toNat, kernel := n.toNat + st.toNat, stages := st
            drain := false, pipelined := pipe }
        let s := s.modRegs fun r => { r with loops := lvl :: r.loops }
        if pipe then
          (s.note 0xC0 (s.me.r.p.setWidth 64)).modMe fun v =>
            { v with
              r := { v.r with p := (v.r.p &&& ~~~(BitVec.ofNat 16 ((2 ^ (st.toNat + 1) - 1) * 256))) ||| 0x100 }
              predAge := Vector.ofFn fun i =>
                if 8 ≤ i.val && i.val ≤ 8 + st.toNat then 0 else v.predAge[i.val] }
        else s)

def execLoop (a : SReg) (ma : Bool) (len : LoopLen) (s : State) : Out := .next (s.startLoop a ma 0 len false)
def execLoopp (a : SReg) (ma : Bool) (stages : BitVec 3) (len : LoopLen) (s : State) : Out :=
  .next (s.startLoop a ma stages len true)

end Sys2Proof.Machine
end

