-- ==== Sys2Proof/Machine/Float.lean ====
section
/-! DEFINITION. Machine/Float.lean: FP32 and BF16 (R101 to R106): decoded values as exact dyadic numbers, the
one rounding of R104, and the operations on element bit patterns. A format is given by its precision p: 24 for
FP32 and 8 for BF16; both have 8 exponent bits. -/

namespace Sys2Proof.Machine

/-! ### Values -/

/-- A decoded value: a NaN, an infinity, or the number (-1)^neg * m * 2^e. -/
inductive Fp where
  | nan (signalling : Bool)
  | inf (neg : Bool)
  | fin (neg : Bool) (m : Nat) (e : Int)
deriving DecidableEq, Repr

/-- The pattern of an element of precision p (R101). -/
def Fp.ofBits (p x : Nat) : Fp :=
  let frac := x % 2 ^ (p - 1)
  let ex := x / 2 ^ (p - 1) % 256
  let neg := bitAt x (p + 7)
  if ex = 255 then (if frac = 0 then .inf neg else .nan (!bitAt x (p - 2)))
  else if ex = 0 then .fin neg frac (-125 - p)
  else .fin neg (frac + 2 ^ (p - 1)) ((ex : Int) - 126 - p)

/-- R102: the canonical quiet NaN. -/
def canonNan (p : Nat) : Nat := 511 * 2 ^ (p - 2)

def infBits (p : Nat) (neg : Bool) : Nat := boolNat neg * 2 ^ (p + 7) + 255 * 2 ^ (p - 1)

def zeroBits (p : Nat) (neg : Bool) : Nat := boolNat neg * 2 ^ (p + 7)

/-- The pattern of the number m * 2^e, where m has at most p + 1 bits and is representable. -/
def packBits (p : Nat) (neg : Bool) (m : Nat) (e : Int) : Nat :=
  let sign := boolNat neg * 2 ^ (p + 7)
  if m = 0 then sign
  else
    let l := Nat.log2 m
    let ex : Int := l + e
    if ex < -126 then sign + m
    else sign + (ex + 127).toNat * 2 ^ (p - 1) + (m * 2 ^ (p - 1) / 2 ^ l - 2 ^ (p - 1))

/-! ### Rounding (R103, R104) -/

/-- A result pattern and the flags it raises. -/
structure FpOut where
  bits : Nat
  fl : Flags
deriving DecidableEq, Repr

/-- How the part below the last kept place compares with half of that place. -/
inductive Tail where
  | zero | below | half | above
deriving DecidableEq, Repr

/-- m / 2^sh with its tail; sticky says that the number is a little more than m, by less than one. -/
def splitTail (m sh : Nat) (sticky : Bool) : Nat × Tail :=
  let r := m % 2 ^ sh
  let t : Tail :=
    if sh = 0 then (if sticky then .below else .zero)
    else if 2 * r < 2 ^ sh then (if r = 0 && !sticky then .zero else .below)
    else if 2 * r = 2 ^ sh && !sticky then .half
    else .above
  (m / 2 ^ sh, t)

/-- R104: whether the kept magnitude is increased by one. -/
def roundUp (rm : RM) (neg odd : Bool) (t : Tail) : Bool :=
  match rm with
  | .rne => t == .above || (t == .half && odd)
  | .rtz => false
  | .rdn => neg && t != .zero
  | .rup => !neg && t != .zero

/-- R104: RoundFP of the number of magnitude m * 2^e, or of one between m * 2^e and (m + 1) * 2^e when sticky is
set; emin = -126 and emax = 127. -/
def roundFp (p : Nat) (rm : RM) (neg : Bool) (m : Nat) (e : Int) (sticky : Bool) : FpOut :=
  if m = 0 && !sticky then ⟨zeroBits p neg, 0⟩
  else
    let l : Int := if m = 0 then e - 1 else Nat.log2 m + e
    let q : Int := max l (-126) - p + 1
    let (n, t) := if e ≤ q then splitTail m (q - e).toNat sticky else splitTail (m * 2 ^ (e - q).toNat) 0 sticky
    let n := if roundUp rm neg (n % 2 = 1) t then n + 1 else n
    let nx := t != .zero
    let fl : Flags := if nx then (if l < -126 then Flags.nx ||| Flags.uf else Flags.nx) else 0
    if n ≠ 0 ∧ (128 : Int) ≤ Nat.log2 n + q then
      let fl := fl ||| Flags.of ||| Flags.nx
      let toInf := match rm with
        | .rne => true
        | .rtz => false
        | .rdn => neg
        | .rup => !neg
      ⟨if toInf then infBits p neg else infBits p neg - 1, fl⟩
    else ⟨packBits p neg n q, fl⟩

/-! ### Exact sums -/

/-- An exact real: m * 2^e. -/
structure Dy where
  m : Int
  e : Int
deriving DecidableEq, Repr

def Dy.add (a b : Dy) : Dy :=
  if a.e ≤ b.e then ⟨a.m + b.m * 2 ^ (b.e - a.e).toNat, a.e⟩ else ⟨a.m * 2 ^ (a.e - b.e).toNat + b.m, b.e⟩

def Dy.mul (a b : Dy) : Dy := ⟨a.m * b.m, a.e + b.e⟩

/-- a < b. -/
def Dy.lt (a b : Dy) : Bool := decide ((Dy.add a ⟨-b.m, b.e⟩).m < 0)

def Dy.abs (a : Dy) : Dy := ⟨a.m.natAbs, a.e⟩

def Fp.isNan : Fp → Bool
  | .nan _ => true
  | _ => false

def Fp.isSnan : Fp → Bool
  | .nan s => s
  | _ => false

def Fp.isInf (neg : Bool) : Fp → Bool
  | .inf n => n == neg
  | _ => false

/-- The exact value of a finite operand. -/
def Fp.dy : Fp → Dy
  | .fin neg m e => ⟨if neg then -(m : Int) else m, e⟩
  | _ => ⟨0, 0⟩

/-- A zero of the given sign. -/
def Fp.isZero (neg : Bool) : Fp → Bool
  | .fin n m _ => n == neg && m == 0
  | _ => false

/-- The sign of a value. -/
def Fp.neg : Fp → Bool
  | .nan _ => false
  | .inf n => n
  | .fin n _ _ => n

def Fp.flip : Fp → Fp
  | .nan s => .nan s
  | .inf n => .inf !n
  | .fin n m e => .fin (!n) m e

/-- R102: NV for a signalling NaN among operands. -/
def nvIf (b : Bool) : Flags := if b then Flags.nv else 0

/-- The product of two operands as an exact value, with the flag of 0 times infinity (R102, R105). -/
def Fp.mul (x y : Fp) : Fp × Flags :=
  let n := x.neg != y.neg
  match x, y with
  | .nan a, .nan b => (.nan false, nvIf (a || b))
  | .nan a, _ => (.nan false, nvIf a)
  | _, .nan b => (.nan false, nvIf b)
  | .inf _, .inf _ => (.inf n, 0)
  | .inf _, .fin _ m _ => if m = 0 then (.nan false, Flags.nv) else (.inf n, 0)
  | .fin _ m _, .inf _ => if m = 0 then (.nan false, Flags.nv) else (.inf n, 0)
  | .fin _ a e, .fin _ b f => (.fin n (a * b) (e + f), 0)

/-- The exact sum of values, as one value (R102, R105). A sum that holds +infinity and -infinity raises NV
whatever else it holds: R183 says so of VRED. For BlockDot of BF16 and for a sum of two R116 and R102 point to
IEEE 754 and give no order of addition; the model reads a BF16 block sum of a quiet NaN, +infinity and -infinity
the same way (DESIGN CHOICE, log 46). A zero sum of zeros of unlike sign takes the sign that IEEE 754 gives it in
the mode (log 21). -/
def sumFp (rm : RM) (xs : List Fp) : Fp × Flags :=
  let opposed := xs.any (Fp.isInf false) && xs.any (Fp.isInf true)
  if xs.any Fp.isNan || opposed then (.nan false, nvIf (opposed || xs.any Fp.isSnan))
  else if xs.any (Fp.isInf false) then (.inf false, 0)
  else if xs.any (Fp.isInf true) then (.inf true, 0)
  else
    let t := xs.foldl (fun a x => a.add x.dy) (⟨0, 0⟩ : Dy)
    if t.m = 0 then
      let neg := !xs.isEmpty && (xs.all (Fp.isZero true) || (rm == .rdn && !xs.all (Fp.isZero false)))
      (.fin neg 0 0, 0)
    else (.fin (decide (t.m < 0)) t.m.natAbs t.e, 0)

/-- R104: a value rounded once to precision p. -/
def Fp.round (p : Nat) (rm : RM) (x : Fp) : FpOut :=
  match x with
  | .nan _ => ⟨canonNan p, 0⟩
  | .inf n => ⟨infBits p n, 0⟩
  | .fin n m e => roundFp p rm n m e false

/-- The value rounded, with flags already raised. -/
def finish (p : Nat) (rm : RM) (r : Fp × Flags) : FpOut :=
  let o := r.1.round p rm
  ⟨o.bits, o.fl ||| r.2⟩

/-! ### Element operations (R167, R169) -/

def fpAdd (p : Nat) (rm : RM) (x y : Fp) : FpOut := finish p rm (sumFp rm [x, y])

def fpMul (p : Nat) (x y : Fp) : FpOut := finish p .rne (x.mul y)

/-- R104: x * y + z rounded once; an invalid product raises NV whatever z is. -/
def fpFma (p : Nat) (x y z : Fp) : FpOut :=
  let (xy, f1) := x.mul y
  let (s, f2) := sumFp .rne [xy, z]
  finish p .rne (s, f1 ||| f2)

/-- x precedes y, -0 below +0 (R102). -/
def fpBelow (x y : Fp) : Bool :=
  match x, y with
  | .inf a, .inf b => a && !b
  | .inf a, _ => a
  | _, .inf b => !b
  | _, _ => Dy.lt x.dy y.dy || (decide ((Dy.add x.dy y.flip.dy).m = 0) && x.neg && !y.neg)

/-- R102: minimumNumber, or maximumNumber. -/
def fpPick (p : Nat) (wantMax : Bool) (a b : Nat) : FpOut :=
  let x := Fp.ofBits p a
  let y := Fp.ofBits p b
  let fl := nvIf (x.isSnan || y.isSnan)
  if x.isNan && y.isNan then ⟨canonNan p, fl⟩
  else if x.isNan then ⟨b, fl⟩
  else if y.isNan then ⟨a, fl⟩
  else if fpBelow y x != wantMax then ⟨b, 0⟩ else ⟨a, 0⟩

/-- R167: VABS and VNEG. -/
def fpSign (p : Nat) (a : Nat) (f : Bool → Bool) : FpOut :=
  let x := Fp.ofBits p a
  if x.isNan then ⟨canonNan p, nvIf x.isSnan⟩
  else ⟨a % 2 ^ (p + 7) + boolNat (f (bitAt a (p + 7))) * 2 ^ (p + 7), 0⟩

/-- R169: x < y and x = y as numbers. -/
def fpLess (x y : Fp) : Bool :=
  match x, y with
  | .inf a, .inf b => a && !b
  | .inf a, _ => a
  | _, .inf b => !b
  | _, _ => Dy.lt x.dy y.dy

def fpSame (x y : Fp) : Bool := !fpLess x y && !fpLess y x

/-- R169: a condition on two numbers. -/
def fpHolds (cc : VCond) (x y : Fp) : Bool :=
  match cc with
  | .eq => fpSame x y
  | .ne => !fpSame x y
  | .lt => fpLess x y
  | .le => !fpLess y x
  | .gt => fpLess y x
  | .ge => !fpLess x y

/-- R169: a floating-point condition and its flags. -/
def fpCond (p : Nat) (cc : VCond) (a b : Nat) : Bool × Flags :=
  let x := Fp.ofBits p a
  let y := Fp.ofBits p b
  if x.isNan || y.isNan then
    (decide (cc = .ne), if cc = .eq ∨ cc = .ne then nvIf (x.isSnan || y.isSnan) else Flags.nv)
  else (fpHolds cc x y, 0)

/-! ### Conversions to and from integers (R99, R106, R118) -/

/-- R99: Sat. -/
def satInt (lo hi x : Int) : Int := if x < lo then lo else if hi < x then hi else x

/-- R106: a finite value rounded to an integer in a mode, and whether rounding changed it. -/
def roundInt (rm : RM) (neg : Bool) (m : Nat) (e : Int) : Int × Bool :=
  let (n, t) := if 0 ≤ e then (m * 2 ^ e.toNat, Tail.zero) else splitTail m (-e).toNat false
  let n := if roundUp rm neg (n % 2 = 1) t then n + 1 else n
  (if neg then -(n : Int) else n, t != .zero)

/-- R106: a floating-point value to an integer type with bounds lo and hi. -/
def fpToInt (rm : RM) (lo hi : Int) (x : Fp) : Int × Flags :=
  match x with
  | .nan _ => (0, Flags.nv)
  | .inf n => (if n then lo else hi, Flags.nv)
  | .fin n m e =>
    let (v, nx) := roundInt rm n m e
    if v < lo ∨ hi < v then (satInt lo hi v, Flags.nv) else (v, if nx then Flags.nx else 0)

/-- R106: an integer rounded to precision p. -/
def intToFp (p : Nat) (rm : RM) (x : Int) : FpOut := roundFp p rm (decide (x < 0)) x.natAbs 0 false

end Sys2Proof.Machine
end

