-- ==== Sys2Proof/Machine/Tapered.lean ====
section
/-! DEFINITION. Machine/Tapered.lean: the tapered formats (R107 to R112), block scales and requantisation
(R113, R118), and the exact block dot product (R116). -/

namespace Sys2Proof.Machine

/-- R107: bits of a format. -/
def tapBits : TapFmt → Nat
  | .t6 => 6 | .t8 => 8 | .t12 => 12

/-- R112: bytes of a container. -/
def tapWidth : TapFmt → Nat
  | .t12 => 2
  | _ => 1

/-- R112: the code of a container, and the container of a code. -/
def tapCode (f : TapFmt) (c : Nat) : Nat :=
  match f with
  | .t6 => c / 4 % 64 | .t8 => c % 256 | .t12 => c / 16 % 4096
def tapBox (f : TapFmt) (x : Nat) : Nat :=
  match f with
  | .t6 => x * 4 | .t8 => x | .t12 => x * 16

/-- The length of the run of bits equal to b from bit i - 1 of c downward. -/
def runLen (b : Bool) (c : Nat) : Nat → Nat
  | 0 => 0
  | i + 1 => if bitAt c i == b then runLen b c i + 1 else 0

/-- R108: DecodeT; none for NaR. -/
def decodeT (n x : Nat) : Option Dy :=
  let w := n - 1
  let c := x % 2 ^ w
  let s := bitAt x w
  if c = 0 then (if s then none else some ⟨0, 0⟩)
  else
    let b := bitAt c (w - 1)
    let m := runLen b c w
    let k : Int := if b then (m : Int) - 1 else -(m : Int)
    let rest := if m = w then 0 else w - m - 1
    let e := boolNat (decide (1 ≤ rest) && bitAt c (rest - 1))
    let fb := rest - 1
    let v : Int := 2 ^ fb + c % 2 ^ fb
    some ⟨if s then -v else v, 2 * k + e - fb⟩

/-- floor(log2 |x|) of a number that is not zero. -/
def Dy.log (x : Dy) : Int := (Nat.log2 x.m.natAbs : Int) + x.e

/-- a = b. -/
def Dy.same (a b : Dy) : Bool := decide ((Dy.add a ⟨-b.m, b.e⟩).m = 0)

/-- R110: EncodeT of a number: the code and its flags. -/
def encodeT (n : Nat) (x : Dy) : Nat × Flags :=
  let w := n - 1
  let top : Int := 2 * ((w : Int) - 1)
  if x.m = 0 then (0, 0)
  else
    let s := boolNat (decide (x.m < 0)) * 2 ^ w
    let t := x.log
    if Dy.lt ⟨1, top⟩ x.abs then (s + (2 ^ w - 1), Flags.of ||| Flags.nx)
    else if t < -top then (s + 1, Flags.uf ||| Flags.nx)
    else
      let a := x.m.natAbs
      let l := Nat.log2 a
      let k := t / 2
      let e := (t - 2 * k).toNat
      let (pre, plen) : Nat × Nat :=
        if 0 ≤ k then ((2 ^ (k + 1).toNat - 1) * 2, (k + 2).toNat) else (1, (-k).toNat + 1)
      let all := ((pre * 2 + e) * 2 ^ l + (a - 2 ^ l)) * 2 ^ (w + 2)
      let cut := plen + 1 + l + 2
      let (c, tail) := splitTail all cut false
      let c := if roundUp .rne false (c % 2 = 1) tail then c + 1 else c
      let exact := match decodeT n (s + c) with
        | some y => Dy.same y x
        | none => false
      (s + c, if exact then 0 else Flags.nx)

def narCode (n : Nat) : Nat := 2 ^ (n - 1)

/-- R111: the n-bit narrow view of a code of full bits: the magnitude bits all zero read as zero. -/
def narrowView (n full code : Nat) : Nat :=
  let top := code / 2 ^ (full - n)
  if code = narCode full then narCode n
  else if top % 2 ^ (n - 1) = 0 then 0 else top

/-- The value of a scaled element: decoded value times 2^(e - 127). -/
def scaleDy (x : Dy) (e : Nat) : Dy := ⟨x.m, x.e + ((e : Int) - 127)⟩

/-- An exact number as a floating-point operand. -/
def Dy.fp (x : Dy) : Fp := .fin (decide (x.m < 0)) x.m.natAbs x.e

/-! ### Requantisation (R118) -/

/-- Targets of requantisation. -/
inductive Target where
  | int (w : Nat) (lo hi : Int)
  | tap (t : TapFmt)
deriving DecidableEq, Repr

def reqTarget : ReqDst → Target
  | .i8 => .int 1 (-128) 127
  | .n8 => .int 1 0 255
  | .tap t => .tap t

def Target.width : Target → Nat
  | .int w _ _ => w
  | .tap t => tapWidth t

/-- floor(log2 |x|) of a finite value that is not zero. -/
def Fp.log? : Fp → Option Int
  | .fin _ m e => if m = 0 then none else some (Nat.log2 m + e)
  | _ => none

/-- R118: ChooseScale over the values of a block; an infinite magnitude gives the largest scale. -/
def chooseScale (vs : List Fp) (t : Target) : Nat :=
  if vs.any Fp.isNan then 0xFF
  else if vs.any fun v => v.isInf false || v.isInf true then 254
  else
    match vs.filterMap Fp.log? with
    | [] => 127
    | v :: rest =>
      let d : Int := match t with
        | .tap _ => 0
        | .int _ _ _ => 6
      (min (max (127 + rest.foldl max v - d) 0) 254).toNat

/-- A value times 2^k. -/
def Fp.shift (x : Fp) (k : Int) : Fp :=
  match x with
  | .fin n m e => .fin n m (e + k)
  | y => y

/-- R110, R106: EncodeT of a floating-point value. -/
def encodeFp (n : Nat) (x : Fp) : Nat × Flags :=
  match x with
  | .fin _ _ _ => encodeT n x.dy
  | _ => (narCode n, Flags.nv)

/-- R118: one element at the new scale: its container and flags. -/
def requantOne (t : Target) (rm : RM) (enew : Nat) (v : Fp) : Nat × Flags :=
  match t with
  | .tap f =>
    if enew = 0xFF then (tapBox f (narCode (tapBits f)), 0)
    else
      let (c, fl) := encodeFp (tapBits f) (v.shift (127 - enew))
      (tapBox f c, fl)
  | .int w lo hi =>
    if enew = 0xFF then (0, 0)
    else
      let (i, fl) := fpToInt rm lo hi (v.shift (127 - enew))
      (wrapTo (8 * w) i, fl)

/-- R118: a block: its new scale, containers and flags; NV once for a block whose scale is 0xFF. -/
def requantBlock (t : Target) (rm : RM) (sup : Option Nat) (vs : List Fp) : Nat × List Nat × Flags :=
  let enew := sup.getD (chooseScale vs t)
  let rs := vs.map (requantOne t rm enew)
  (enew, rs.map (·.1), rs.foldl (fun f r => f ||| r.2) (if enew = 0xFF then Flags.nv else 0))

/-! ### Block dot products (R116) -/

/-- The sum of products of two lists of exact numbers. -/
def dotDy : List Dy → List Dy → Dy
  | a :: as, b :: bs => (a.mul b).add (dotDy as bs)
  | _, _ => ⟨0, 0⟩

/-- The tapered elements of a row as read at n bits from codes of full bits; none when one is NaR. -/
def tapRow (n full : Nat) (codes : List Nat) : Option (List Dy) :=
  codes.mapM fun c => decodeT n (narrowView n full c)

/-- R116: BlockDot of a tapered pair of rows, as an exact value or a NaN with NV. -/
def blockDotTap (a : Option (List Dy)) (sa : Nat) (b : Option (List Dy)) (sb : Nat) : Fp × Flags :=
  if sa = 0xFF ∨ sb = 0xFF then (.nan false, Flags.nv)
  else
    match a, b with
    | some x, some y =>
      let d := dotDy x y
      (if d.m = 0 then .fin false 0 0 else Dy.fp ⟨d.m, d.e + ((sa : Int) - 127) + ((sb : Int) - 127)⟩, 0)
    | _, _ => (.nan false, Flags.nv)

/-- R116: BlockDot of two BF16 rows. -/
def blockDotBf (a b : List Fp) : Fp × Flags :=
  let ps := (a.zip b).map fun q => q.1.mul q.2
  let fl := ps.foldl (fun f q => f ||| q.2) 0
  let (s, f2) := sumFp .rne (ps.map (·.1))
  (s, fl ||| f2)

/-- R116: BlockDot of INT8 rows. -/
def blockDotInt (a b : List Int) : Int := ((a.zip b).map fun q => q.1 * q.2).sum

/-- R210: one FP32 accumulator element after a block product. -/
def accumulate (c : Nat) (x : Fp × Flags) : FpOut :=
  let y := x.1.round 24 .rne
  let z := fpAdd 24 .rne (Fp.ofBits 24 c) (Fp.ofBits 24 y.bits)
  ⟨z.bits, x.2 ||| y.fl ||| z.fl⟩

end Sys2Proof.Machine
end

