-- ==== Sys2Proof/Machine/Transcend.lean ====
section
/-! DEFINITION. Machine/Transcend.lean: the special functions of R187, each rounded once from the exact value.
A function value that is not a dyadic number is enclosed between two fixed-point numbers; when both ends lie
between the same two neighbours of a grid much finer than the format, that neighbour and a sticky bit give the
rounding of R104 exactly; otherwise the enclosure is made finer. Three rounds of precision are tried (log 22). -/

namespace Sys2Proof.Machine

/-! ### Fixed-point series

Numbers stand for themselves times 2^n. Every routine below is off by less than 2^16 units. -/

/-- The bits by which an enclosure is wider than the error of the series. -/
def guardBits : Nat := 24

/-- Sum of y^k / k! from a term on, with k counting up. -/
def expTail (n : Nat) (y : Int) (term : Int) (k : Nat) : Nat → Int
  | 0 => 0
  | fuel + 1 => term + expTail n y (term * y / 2 ^ n / (k + 1)) (k + 1) fuel

/-- e^y for |y| ≤ 1. -/
def fixExp (n : Nat) (y : Int) : Int := expTail n y (2 ^ n) 0 (n / 3 + 8)

/-- The sum of 1 / (k 2^k): ln 2. -/
def fixLn2 (n : Nat) : Int := ((List.range (n + 1)).map fun (k : Nat) => (2 ^ n : Int) / (((k + 1) * 2 ^ (k + 1) : Nat) : Int)).sum

/-- Sum of sign z^(2k+1) / (2k+1), with sg = 1 for atanh and -1 for atan. -/
def atanTail (n : Nat) (z2 pow : Int) (sg : Int) (k : Nat) : Nat → Int
  | 0 => 0
  | fuel + 1 => pow / (2 * k + 1) + atanTail n z2 (sg * (pow * z2 / 2 ^ n)) sg (k + 1) fuel

/-- atanh z or atan z for |z| ≤ 1/3. -/
def fixAtan (n : Nat) (sg z : Int) : Int := atanTail n (z * z / 2 ^ n) z sg 0 (n / 3 + 4)

/-- Machin: pi = 16 atan(1/5) - 4 atan(1/239). -/
def fixPi (n : Nat) : Int := 16 * fixAtan n (-1) (2 ^ n / 5) - 4 * fixAtan n (-1) (2 ^ n / 239)

/-- Sum of alternating terms of sine or cosine from a term on. -/
def trigTail (n : Nat) (y2 : Int) (term : Int) (k : Nat) : Nat → Int
  | 0 => 0
  | fuel + 1 => term + trigTail n y2 (-(term * y2 / 2 ^ n / ((k + 1) * (k + 2)))) (k + 2) fuel

def fixSin (n : Nat) (y : Int) : Int := trigTail n (y * y / 2 ^ n) y 1 (n / 4 + 6)
def fixCos (n : Nat) (y : Int) : Int := trigTail n (y * y / 2 ^ n) (2 ^ n) 0 (n / 4 + 6)

/-- m * 2^e as a fixed-point number, rounded down. -/
def fixOf (n : Nat) (m : Int) (e : Int) : Int :=
  if 0 ≤ e + n then m * 2 ^ (e + n).toNat else m / 2 ^ (-(e + n)).toNat

/-! ### From an enclosure to a result -/

/-- A magnitude between m * 2^e and (m + 1) * 2^e, or exactly m * 2^e, with its sign. -/
structure Near where
  neg : Bool
  m : Nat
  e : Int
  sticky : Bool
deriving DecidableEq, Repr

def Near.round (p : Nat) (r : Near) : FpOut := roundFp p .rne r.neg r.m r.e r.sticky

/-- The value v / 2^n * 2^e, known to be no dyadic number and off by less than 2^16 units: the neighbour below
on a grid of 2^guardBits units, when both ends of the enclosure agree on it. -/
def enclose (n : Nat) (v : Int) (e : Int) : Option Near :=
  let a := v.natAbs
  let lo := (a - 2 ^ 16) / 2 ^ guardBits
  let hi := (a + 2 ^ 16) / 2 ^ guardBits
  if lo = hi ∧ 2 ^ 60 ≤ lo then some ⟨decide (v < 0), lo, e - n + guardBits, true⟩ else none

/-- The first precision that encloses the value; the last one's neighbour when none does (log 22). -/
def settle (f : Nat → Int × Int) : Near :=
  let at_ (n : Nat) : Option Near := enclose n (f n).1 (f n).2
  match at_ 256 with
  | some r => r
  | none =>
    match at_ 512 with
    | some r => r
    | none =>
      match at_ 1024 with
      | some r => r
      | none =>
        let (v, e) := f 1024
        ⟨decide (v < 0), v.natAbs / 2 ^ guardBits, e - 1024 + guardBits, true⟩

/-! ### The functions on finite nonzero operands (-1)^neg * m * 2^e -/

/-- e^(t / 2^n) as a fixed-point number and a power of two, by t = k ln 2 + r. -/
def fixExpAny (n : Nat) (t : Int) : Int × Int :=
  let l := fixLn2 n
  let k := t / l
  (fixExp n (t - k * l), k)

/-- Twice as many places as asked for keep a large multiple of ln 2 or pi exact enough. -/
def wide (n : Nat) : Nat := n + 320

/-- A fixed-point number with fewer places. -/
def narrow (n : Nat) (v : Int) : Int := v / 2 ^ (wide n - n)

/-- R187: 2^x. -/
def exp2Fin (neg : Bool) (m : Nat) (e : Int) : Near :=
  let x : Int := if neg then -(m : Int) else m
  if 12 < (Nat.log2 m : Int) + e then ⟨false, 1, if neg then -4096 else 4096, true⟩
  else if 0 ≤ e then ⟨false, 1, x * 2 ^ e.toNat, false⟩
  else if (m : Int) % 2 ^ (-e).toNat = 0 then ⟨false, 1, x / 2 ^ (-e).toNat, false⟩
  else if (Nat.log2 m : Int) + e < -100 then
    (if neg then ⟨false, 2 ^ 80 - 1, -80, true⟩ else ⟨false, 2 ^ 80, -80, true⟩)
  else
    settle fun n =>
      let y := fixOf n x e
      (fixExp n ((y - y / 2 ^ n * 2 ^ n) * fixLn2 n / 2 ^ n), y / 2 ^ n)

/-- R187: log2 x of a positive x. -/
def log2Fin (m : Nat) (e : Int) : Near :=
  let l := Nat.log2 m
  let k : Int := l + e
  if m = 2 ^ l then ⟨decide (k < 0), k.natAbs, 0, false⟩
  else
    settle fun n =>
      let y := fixOf n m (-(l : Int))
      let (y, k) := if 3 * 2 ^ n < 2 * y then (y / 2, k + 1) else (y, k)
      let z := (y - 2 ^ n) * 2 ^ n / (y + 2 ^ n)
      (k * 2 ^ n + 2 * fixAtan n 1 z * 2 ^ n / fixLn2 n, 0)

/-- R187: 1/x. -/
def rcpFin (neg : Bool) (m : Nat) (e : Int) : Near :=
  let k := Nat.log2 m + 64
  ⟨neg, 2 ^ k / m, -e - k, decide (2 ^ k % m ≠ 0)⟩

/-- The integer square root of x, by bits from 2^i down. -/
def isqrtFrom (x r : Nat) : Nat → Nat
  | 0 => r
  | i + 1 => isqrtFrom x (if (r + 2 ^ i) * (r + 2 ^ i) ≤ x then r + 2 ^ i else r) i

/-- R187: 1/sqrt(x) of a positive x. -/
def rsqFin (m : Nat) (e : Int) : Near :=
  let (m, e) := if e % 2 = 0 then (m, e) else (2 * m, e - 1)
  let k := Nat.log2 m + 64
  let q := isqrtFrom (2 ^ (2 * k) / m) 0 (k + 1)
  ⟨false, q, -(e / 2) - k, decide (q * q * m ≠ 2 ^ (2 * k))⟩

/-- A value a little below the magnitude m * 2^e (R187: sine and hyperbolic tangent of a small operand). -/
def justBelow (neg : Bool) (m : Nat) (e : Int) : Near := ⟨neg, m * 2 ^ 80 - 1, e - 80, true⟩

/-- The quadrant of |x| and the remainder in it, as a fixed-point number within half a quadrant. -/
def trigSplit (n : Nat) (m : Nat) (e : Int) : Int × Int :=
  let h := fixPi (wide n) / 2
  let x := fixOf (wide n) m e
  let k := (2 * x + h) / (2 * h)
  (k % 4, narrow n (x - k * h))

/-- R187: sin x. -/
def sinFin (neg : Bool) (m : Nat) (e : Int) : Near :=
  if (Nat.log2 m : Int) + e < -60 then justBelow neg m e
  else
    settle fun n =>
      let (k, r) := trigSplit n m e
      let v := if k = 0 then fixSin n r else if k = 1 then fixCos n r else if k = 2 then -fixSin n r
        else -fixCos n r
      (if neg then -v else v, 0)

/-- R187: cos x. -/
def cosFin (m : Nat) (e : Int) : Near :=
  if (Nat.log2 m : Int) + e < -60 then justBelow false 1 0
  else
    settle fun n =>
      let (k, r) := trigSplit n m e
      (if k = 0 then fixCos n r else if k = 1 then -fixSin n r else if k = 2 then -fixCos n r
        else fixSin n r, 0)

/-- R187: tanh x = (1 - t) / (1 + t), where t = e^(-2|x|). -/
def tanhFin (neg : Bool) (m : Nat) (e : Int) : Near :=
  let l : Int := Nat.log2 m + e
  if l < -60 then justBelow neg m e
  else if 6 ≤ l then justBelow neg 1 0
  else
    settle fun n =>
      let (t, k) := fixExpAny n (-2 * fixOf n m e)
      let t := fixOf 0 t k
      let v := (2 ^ n - t) * 2 ^ n / (2 ^ n + t)
      (if neg then -v else v, 0)

/-- R187: 1 / (1 + e^(-x)). -/
def sigmFin (neg : Bool) (m : Nat) (e : Int) : Near :=
  let l : Int := Nat.log2 m + e
  if l < -100 then (if neg then justBelow false 1 (-1) else ⟨false, 2 ^ 80, -81, true⟩)
  else if !neg ∧ 7 ≤ l then justBelow false 1 0
  else if 12 ≤ l then ⟨false, 1, -4096, true⟩
  else
    settle fun n =>
      let (t, k) := fixExpAny n (-(fixOf n m e))
      let den := 2 ^ n + fixOf 0 t k
      if neg then (t * 2 ^ n / den, k) else (2 ^ (2 * n) / den, 0)

/-! ### The table of R187 -/

/-- The special functions. -/
inductive Sfu where
  | exp2 | log2 | rcp | rsq | sin | cos | tanh | sigm
deriving DecidableEq, Repr

/-- The pattern of 1. -/
def oneBits (p : Nat) : Nat := 127 * 2 ^ (p - 1)

/-- R102, R187: an invalid operation. -/
def invalidOut (p : Nat) : FpOut := ⟨canonNan p, Flags.nv⟩

/-- R187: f(x) of an infinite operand. -/
def sfuInf (p : Nat) (f : Sfu) (neg : Bool) : FpOut :=
  match f with
  | .exp2 => ⟨if neg then 0 else infBits p false, 0⟩
  | .log2 => if neg then invalidOut p else ⟨infBits p false, 0⟩
  | .rcp => ⟨zeroBits p neg, 0⟩
  | .rsq => if neg then invalidOut p else ⟨0, 0⟩
  | .sin => invalidOut p
  | .cos => invalidOut p
  | .tanh => ⟨zeroBits p neg + oneBits p, 0⟩
  | .sigm => ⟨if neg then 0 else oneBits p, 0⟩

/-- R187: f(x) of a zero operand. -/
def sfuZero (p : Nat) (f : Sfu) (neg : Bool) : FpOut :=
  match f with
  | .exp2 => ⟨oneBits p, 0⟩
  | .log2 => ⟨infBits p true, Flags.dz⟩
  | .rcp => ⟨infBits p neg, Flags.dz⟩
  | .rsq => ⟨infBits p neg, Flags.dz⟩
  | .sin => ⟨zeroBits p neg, 0⟩
  | .cos => ⟨oneBits p, 0⟩
  | .tanh => ⟨zeroBits p neg, 0⟩
  | .sigm => ⟨126 * 2 ^ (p - 1), 0⟩

/-- R187: f(x) of a finite operand that is not zero. -/
def sfuFin (p : Nat) (f : Sfu) (neg : Bool) (m : Nat) (e : Int) : FpOut :=
  match f with
  | .exp2 => (exp2Fin neg m e).round p
  | .log2 => if neg then invalidOut p else (log2Fin m e).round p
  | .rcp => (rcpFin neg m e).round p
  | .rsq => if neg then invalidOut p else (rsqFin m e).round p
  | .sin => (sinFin neg m e).round p
  | .cos => (cosFin m e).round p
  | .tanh => (tanhFin neg m e).round p
  | .sigm => (sigmFin neg m e).round p

/-- R187: f(x) of an element. -/
def sfuOut (p : Nat) (f : Sfu) (x : Nat) : FpOut :=
  match Fp.ofBits p x with
  | .nan s => ⟨canonNan p, nvIf s⟩
  | .inf n => sfuInf p f n
  | .fin n m e => if m = 0 then sfuZero p f n else sfuFin p f n m e

end Sys2Proof.Machine
end

