-- ==== Sys2Proof/Machine/Vector.lean ====
section
/-! DEFINITION. Machine/Vector.lean: the V class and the special-function instructions (R157 to R189). -/

namespace Sys2Proof.Machine

/-! ### Pipes and results (R120, R123, R161 to R163, R188) -/

/-- R161: the passes of n elements of w bytes. -/
def passes (n w : Nat) : Nat := ceilDiv (n * w) 128

/-- The pipe of a V position: V0 or V1. -/
def pipeIx (pos : BitVec 3) : Fin 2 := if pos = 3 then 1 else 0

/-- R161: the slot takes its pipe for occ cycles. Its bundle has waited for the pipe before it issued. -/
def State.takePipe (s : State) (occ : Nat) : State :=
  let i := pipeIx s.cur.pos
  let t := s.now
  s.modMyCore fun k => { k with vfree := k.vfree.set i.val (max t k.vfree[i.val] + occ) }

/-- R123: while TEN is nonzero, an instruction that can raise a flag stalls its bundle for its latency; an enabled
flag raises the arithmetic exception, with its record, and nothing else of the slot takes effect. k goes on with the latency that
is left. -/
def State.precise (s : State) (fl : Option Flags) (lat : Nat) (k : State → Nat → State) : State :=
  let ten := s.me.r.ten
  match fl with
  | none => k s lat
  | some f =>
    if ten = 0 then k s lat
    else
      let s := s.stallSlots (lat - 1)
      if f &&& ten = 0 then k s 1
      else (s.modRegs fun r => r.recordEvent s.cur.addr s.cur.pos f true (s.now + 1, s.me.seq)).trapSlot .arithmetic

/-- A slab result of a V slot: the pipe, precise mode, the outstanding write, the post-increments. -/
def State.vecOut (s : State) (fields : List VField) (ds : List Nat) (data side : List Host.Cell) (lat occ : Nat)
    (fp : Bool) (fl : Option Flags) : State :=
  (s.takePipe occ).precise fl lat fun s lat => (s.slabWrite ds data side lat fp (fl.getD 0)).postInc fields

/-- A scalar result of a V slot, latency 3 and occupancy 1 (R162). -/
def State.vecScalar (s : State) (fields : List VField) (d : SReg) (v : Word) (fp : Bool) : State :=
  ((s.takePipe 1).regWriteF d v 3 fp 0).postInc fields

/-- A single-cycle V slot (R162). -/
def State.vecNow (s : State) (k : State → State) : State := k (s.takePipe 1)

/-- R169: a mask written at the end of its bundle's stall. -/
def State.vecMask (s : State) (fields : List VField) (d : KReg) (v : BitVec 2048) (lat occ : Nat)
    (fl : Option Flags) : State :=
  let s := s.takePipe occ
  let put (s : State) : State :=
    (s.modRegs fun r => (r.putK d v).raiseFlags s.cur.addr s.cur.pos (fl.getD 0) true (s.now + 1, s.me.seq)).postInc fields
  if s.me.r.ten ≠ 0 ∧ fl.isSome then s.precise fl lat fun s _ => put s else put (s.stallSlots (lat - 1))

/-! ### Reading -/

/-- Several slab sources with their read modes, left to right. -/
def State.readVs (s : State) (fs : List (VField × Bool)) (k : List Nat → State) : State :=
  match fs with
  | [] => k []
  | (f, m) :: rest => s.readV f m fun q => s.readVs rest fun qs => k (q :: qs)

/-- The elements of the current shape in a slab. -/
def State.shapeElems (s : State) (q : Nat) : List Nat := s.slabElems q (tyWidth s.shape.ty) s.shape.count

/-- The cells of an array of elements written from the start of slab q. -/
def State.arrayCells (s : State) (q w : Nat) (es : List Nat) : List Host.Cell :=
  slabCells (s.myCore.slabAddr s.cur.ctx q) (elemBytes w es)

/-- The integer an element stands for: signed for INT, unsigned otherwise (R98). -/
def tyVal (t : ElemTy) (x : Nat) : Int := if tyInt t then signedOf (8 * tyWidth t) x else (x % 2 ^ (8 * tyWidth t) : Nat)

/-- R98: the bounds of an integer type. -/
def tyMin (t : ElemTy) : Int := if tyInt t then -(2 ^ (8 * tyWidth t - 1)) else 0
def tyMax (t : ElemTy) : Int := if tyInt t then 2 ^ (8 * tyWidth t - 1) - 1 else 2 ^ (8 * tyWidth t) - 1

/-- The precision of a floating-point element type. -/
def tyPrec (t : ElemTy) : Nat := if t = .bf16 then 8 else 24

/-- The pattern of an integer in a type (R99). -/
def tyPat (t : ElemTy) (v : Int) : Nat := wrapTo (8 * tyWidth t) v

/-! ### Element-wise instructions -/

/-- What an instruction computes on one element of a type: none where the type is not allowed (R159). -/
abbrev ElemFn := ElemTy → Option (Nat → Nat → Nat → FpOut)

/-- f on corresponding elements of up to three sources. -/
def map3 (f : Nat → Nat → Nat → FpOut) : List Nat → List Nat → List Nat → List FpOut
  | x :: xs, ys, zs => f x (ys.headD 0) (zs.headD 0) :: map3 f xs ys.tail zs.tail
  | [], _, _ => []

/-- The flags of a list of results. -/
def allFlags (rs : List FpOut) : Flags := rs.foldl (fun f r => f ||| r.fl) 0

/-- An element-wise instruction: srcs in the order x, y, z; depth gives P of R162. -/
def State.vecElem (s : State) (d : VField) (srcs : List (VField × Bool)) (depth : ElemTy → Nat) (f : ElemFn) :
    State :=
  let t := s.shape.ty
  s.readVs srcs fun qs => s.destV d fun q =>
    match f t with
    | none => s.trapSlot .illegalOperand
    | some g =>
      let cols := qs.map s.shapeElems
      let rs := map3 g (cols[0]?.getD []) (cols[1]?.getD []) (cols[2]?.getD [])
      let n := passes s.shape.count (tyWidth t)
      s.vecOut (d :: srcs.map (·.1)) [q] (s.arrayCells q (tyWidth t) (rs.map (·.bits))) [] (depth t + n - 1) n
        (tyFp t) (if tyFp t then some (allFlags rs) else none)

/-- R167: an integer operation wrapped to the type, and a floating-point operation. -/
def arith (fi : Int → Int → Int → Int) (ff : Option (Nat → Nat → Nat → Nat → FpOut)) : ElemFn := fun t =>
  if tyFp t then ff.map fun g => g (tyPrec t)
  else some fun x y z => ⟨tyPat t (fi (tyVal t x) (tyVal t y) (tyVal t z)), 0⟩

/-- An operation on two floating-point operands. -/
def fp2 (g : Nat → Fp → Fp → FpOut) : Nat → Nat → Nat → Nat → FpOut := fun p x y _ => g p (Fp.ofBits p x) (Fp.ofBits p y)

/-- R99, R167: a saturated integer operation. -/
def satArith (fi : Int → Int → Int) : ElemFn := fun t =>
  if tyFp t then none
  else some fun x y _ => ⟨tyPat t (satInt (tyMin t) (tyMax t) (fi (tyVal t x) (tyVal t y))), 0⟩

/-- R162: depth 2 for integers and 4 for floating point; 4 and 4; 4 and 6. -/
def depth24 (t : ElemTy) : Nat := if tyFp t then 4 else 2
def depth46 (t : ElemTy) : Nat := if tyFp t then 6 else 4

def fpSub (p : Nat) (x y : Fp) : FpOut := fpAdd p .rne x y.flip

def execVadd (d a b : VField) (ma mb : Bool) (s : State) : Out :=
  .next (s.vecElem d [(a, ma), (b, mb)] depth24 (arith (fun x y _ => x + y) (some (fp2 fun p => fpAdd p .rne))))
def execVsub (d a b : VField) (ma mb : Bool) (s : State) : Out :=
  .next (s.vecElem d [(a, ma), (b, mb)] depth24 (arith (fun x y _ => x - y) (some (fp2 fpSub))))
def execVmul (d a b : VField) (ma mb : Bool) (s : State) : Out :=
  .next (s.vecElem d [(a, ma), (b, mb)] (fun _ => 4) (arith (fun x y _ => x * y) (some (fp2 fpMul))))
def execVfma (d a b : VField) (ma mb : Bool) (s : State) : Out :=
  .next (s.vecElem d [(a, ma), (b, mb), (d, false)] depth46 (arith (fun x y z => x * y + z)
    (some fun p x y z => fpFma p (Fp.ofBits p x) (Fp.ofBits p y) (Fp.ofBits p z))))
def execVfms (d a b : VField) (ma mb : Bool) (s : State) : Out :=
  .next (s.vecElem d [(a, ma), (b, mb), (d, false)] depth46 (arith (fun x y z => z - x * y)
    (some fun p x y z => fpFma p (Fp.ofBits p x).flip (Fp.ofBits p y) (Fp.ofBits p z))))
def execVmin (d a b : VField) (ma mb : Bool) (s : State) : Out :=
  .next (s.vecElem d [(a, ma), (b, mb)] depth24 (arith (fun x y _ => min x y) (some fun p x y _ => fpPick p false x y)))
def execVmax (d a b : VField) (ma mb : Bool) (s : State) : Out :=
  .next (s.vecElem d [(a, ma), (b, mb)] depth24 (arith (fun x y _ => max x y) (some fun p x y _ => fpPick p true x y)))
def execVabs (d a : VField) (ma : Bool) (s : State) : Out :=
  .next (s.vecElem d [(a, ma)] depth24 (arith (fun x _ _ => x.natAbs) (some fun p x _ _ => fpSign p x fun _ => false)))
def execVneg (d a : VField) (ma : Bool) (s : State) : Out :=
  .next (s.vecElem d [(a, ma)] depth24 (arith (fun x _ _ => -x) (some fun p x _ _ => fpSign p x not)))
def execVadds (d a b : VField) (ma mb : Bool) (s : State) : Out :=
  .next (s.vecElem d [(a, ma), (b, mb)] (fun _ => 2) (satArith (· + ·)))
def execVsubs (d a b : VField) (ma mb : Bool) (s : State) : Out :=
  .next (s.vecElem d [(a, ma), (b, mb)] (fun _ => 2) (satArith (· - ·)))

/-- R167: floor(x * y / 2^(8w)) modulo 2^(8w). -/
def mulhElem : ElemFn := fun t =>
  if tyFp t then none
  else some fun x y _ => ⟨tyPat t (tyVal t x * tyVal t y / 2 ^ (8 * tyWidth t)), 0⟩

def execVmulh (d a b : VField) (ma mb : Bool) (s : State) : Out :=
  .next (s.vecElem d [(a, ma), (b, mb)] (fun _ => 4) mulhElem)

/-- R168: an instruction on bit patterns of any type; it raises no flag. -/
def State.vecBits (s : State) (d : VField) (srcs : List (VField × Bool)) (f : Nat → Nat → Nat → Nat) : State :=
  let h := s.shape
  let w := tyWidth h.ty
  s.readVs srcs fun qs => s.destV d fun q =>
    let cols := qs.map s.shapeElems
    let rs := map3 (fun x y _ => ⟨f (8 * w) x y % 2 ^ (8 * w), 0⟩) (cols[0]?.getD []) (cols[1]?.getD [])
      (cols[2]?.getD [])
    let n := passes h.count w
    s.vecOut (d :: srcs.map (·.1)) [q] (s.arrayCells q w (rs.map (·.bits))) [] (n + 1) n (tyFp h.ty) none

/-- R168: the shift amount is the low log2(8w) bits of y. -/
def vshl (n x y : Nat) : Nat := x * 2 ^ (y % n)
def vshr (n x y : Nat) : Nat := x / 2 ^ (y % n)
def vsra (n x y : Nat) : Nat := wrapTo n (signedOf n x / 2 ^ (y % n))

def execVand (d a b : VField) (ma mb : Bool) (s : State) : Out :=
  .next (s.vecBits d [(a, ma), (b, mb)] fun _ x y => x &&& y)
def execVor (d a b : VField) (ma mb : Bool) (s : State) : Out :=
  .next (s.vecBits d [(a, ma), (b, mb)] fun _ x y => x ||| y)
def execVxor (d a b : VField) (ma mb : Bool) (s : State) : Out :=
  .next (s.vecBits d [(a, ma), (b, mb)] fun _ x y => x ^^^ y)
def execVnot (d a : VField) (ma : Bool) (s : State) : Out :=
  .next (s.vecBits d [(a, ma)] fun n x _ => 2 ^ n - 1 - x)
def execVshl (d a b : VField) (ma mb : Bool) (s : State) : Out := .next (s.vecBits d [(a, ma), (b, mb)] vshl)
def execVshr (d a b : VField) (ma mb : Bool) (s : State) : Out := .next (s.vecBits d [(a, ma), (b, mb)] vshr)
def execVsra (d a b : VField) (ma mb : Bool) (s : State) : Out := .next (s.vecBits d [(a, ma), (b, mb)] vsra)

/-! ### Compare, select and masks (R169 to R172) -/

/-- The mask whose bit i is the i-th element of a list. -/
def maskOfList (bs : List Bool) : BitVec 2048 := BitVec.ofNat 2048 (bs.foldr (fun b m => boolNat b + 2 * m) 0)

/-- R54: the mask bits below E. -/
def belowE (e : Nat) : BitVec 2048 := BitVec.ofNat 2048 (2 ^ e - 1)

/-- R169: an integer condition. -/
def intCond (cc : VCond) (x y : Int) : Bool :=
  match cc with
  | .eq => decide (x = y) | .ne => decide (x ≠ y) | .lt => decide (x < y) | .le => decide (x ≤ y)
  | .gt => decide (y < x) | .ge => decide (y ≤ x)

/-- R169: a condition on two elements. -/
def elemCond (t : ElemTy) (cc : VCond) (x y : Nat) : Bool × Flags :=
  if tyFp t then fpCond (tyPrec t) cc x y else (intCond cc (tyVal t x) (tyVal t y), 0)

def execVcmp (d : KReg) (cc : VCond) (a b : VField) (ma mb : Bool) (s : State) : Out :=
  .next (s.readV a ma fun qa => s.readV b mb fun qb =>
    let t := s.shape.ty
    let rs := (s.shapeElems qa).zipWith (elemCond t cc) (s.shapeElems qb)
    let n := passes s.shape.count (tyWidth t)
    s.vecMask [a, b] d (maskOfList (rs.map (·.1))) (depth24 t + n - 1) n
      (if tyFp t then some (rs.foldl (fun f r => f ||| r.2) 0) else none))

/-- R170. The table of R162 names VSEL, VSPLAT and VBCAST for integer types only; the model takes the pipeline
depth of that row, P = 2, on a floating-point type too, here and in `State.splat` and `execVbcast` (DESIGN CHOICE,
log 48). -/
def execVsel (d a : VField) (k : KReg) (ma : Bool) (s : State) : Out :=
  .next (s.readV a ma fun qa => s.readV d false fun q =>
    let t := s.shape.ty
    let w := tyWidth t
    let m := s.me.r.getK k
    let n := passes s.shape.count w
    let es := ((s.shapeElems qa).zip (s.shapeElems q)).zip (List.range s.shape.count) |>.map fun p =>
      if m.getLsbD p.2 then p.1.1 else p.1.2
    s.vecOut [d, a] [q] (s.arrayCells q w es) [] (n + 1) n (tyFp t) none)

/-- R171: a mask operation on the bits below E. -/
def State.maskOp (s : State) (d : KReg) (v : BitVec 2048) : State :=
  s.vecNow fun s => s.modRegs fun r => r.putK d (v &&& belowE s.shape.count)

def execKand (d a b : KReg) (s : State) : Out := .next (s.maskOp d (s.me.r.getK a &&& s.me.r.getK b))
def execKor (d a b : KReg) (s : State) : Out := .next (s.maskOp d (s.me.r.getK a ||| s.me.r.getK b))
def execKxor (d a b : KReg) (s : State) : Out := .next (s.maskOp d (s.me.r.getK a ^^^ s.me.r.getK b))
def execKnot (d a : KReg) (s : State) : Out := .next (s.maskOp d (~~~(s.me.r.getK a)))

/-- The indices below n of the set bits of a mask. -/
def setBits (n : Nat) (m : BitVec 2048) : List Nat := (List.range n).filter fun i => m.getLsbD i

/-- R172: the number of set bits below E. -/
def execKpopc (d : SReg) (a : KReg) (s : State) : Out :=
  .next (s.vecScalar [] d (BitVec.ofNat 64 (setBits s.shape.count (s.me.r.getK a)).length) (tyFp s.shape.ty))

/-- R172: the highest set bit below E. -/
def execKtop (d : SReg) (a : KReg) (s : State) : Out :=
  .next (s.vecScalar [] d (match (setBits s.shape.count (s.me.r.getK a)).getLast? with
    | some i => BitVec.ofNat 64 i
    | none => BitVec.allOnes 64) (tyFp s.shape.ty))

/-! ### Moving elements (R173 to R180) -/

/-- R173: a pattern in every element. -/
def State.splat (s : State) (d : VField) (v : Word) : State :=
  let w := tyWidth s.shape.ty
  s.destV d fun q =>
    let n := passes s.shape.count w
    s.vecOut [d] [q] (s.arrayCells q w (List.replicate s.shape.count v.toNat)) [] (n + 1) n (tyFp s.shape.ty) none

def execVsplatReg (d : VField) (a : SReg) (ma : Bool) (s : State) : Out :=
  .next (s.readS a ma fun x => s.splat d x)
def execVsplatImm (d : VField) (w : Word32) (s : State) : Out := .next (s.splat d (w.signExtend 64))

/-- R174: the element that VBCAST copies to (row, col). -/
def bcastIx (h : Shape) (col : Bool) (j i : Nat) : Nat :=
  if col then i / h.cols * h.cols + j else j * h.cols + i % h.cols

def execVbcast (d a : VField) (b : SReg) (ma mb : Bool) (s : State) : Out :=
  .next (s.readV a ma fun qa => s.readS b mb fun y => s.destV d fun q =>
    let h := s.shape
    let j := bits y.toNat 11 0
    let col := y.getLsbD 16
    s.check (decide (j < if col then h.cols else h.rows)) .illegalOperand
      (let w := tyWidth h.ty
       let n := passes h.count w
       let src := (s.shapeElems qa).toArray
       let es := (List.range h.count).map fun i => src[bcastIx h col j i]?.getD 0
       s.vecOut [d, a] [q] (s.arrayCells q w es) [] (n + 1) n (tyFp h.ty) none))

/-- R175: an element as a scalar: sign-extended for INT types. -/
def elemWord (t : ElemTy) (x : Nat) : Word := BitVec.ofInt 64 (tyVal t x)

def execVextr (d : SReg) (a : VField) (b : SReg) (ma mb : Bool) (s : State) : Out :=
  .next (s.readV a ma fun qa => s.readS b mb fun y =>
    s.check (decide (y.toNat < s.shape.count)) .illegalOperand
      (s.vecScalar [a] d (elemWord s.shape.ty ((s.shapeElems qa).getD y.toNat 0)) (tyFp s.shape.ty)))

def execVins (d : VField) (a b : SReg) (ma mb : Bool) (s : State) : Out :=
  .next (s.readS a ma fun x => s.readS b mb fun y => s.readV d false fun q =>
    s.check (decide (y.toNat < s.shape.count)) .illegalOperand
      (let w := tyWidth s.shape.ty
       s.vecOut [d] [q] (slabCells (s.myCore.slabAddr s.cur.ctx q + y.toNat * w) (leBytes w x.toNat)) [] 2 1
         (tyFp s.shape.ty) none))

/-- R176: the number of set bits below each index. -/
def iotaFrom (m : BitVec 2048) (i acc : Nat) : Nat → List Nat
  | 0 => []
  | n + 1 => acc :: iotaFrom m (i + 1) (acc + boolNat (m.getLsbD i)) n

def execViota (d : VField) (k : KReg) (s : State) : Out :=
  .next (s.destV d fun q =>
    s.check (!tyFp s.shape.ty) .illegalOperand
      (let w := tyWidth s.shape.ty
       let n := passes s.shape.count w
       s.vecOut [d] [q] (s.arrayCells q w (iotaFrom (s.me.r.getK k) 0 0 s.shape.count)) [] (n + 1) n false none))

/-- R177. -/
def execVcopy (d a : VField) (ma : Bool) (s : State) : Out :=
  .next (s.readV a ma fun qa => s.destV d fun q =>
    s.vecOut [d, a] [q] (slabCells (s.myCore.slabAddr s.cur.ctx q) (s.myCore.slabBytes s.cur.ctx qa)) [] 17 16
      (tyFp s.shape.ty) none)

/-- R178: the NAT16 indices of a slab. -/
def State.indices (s : State) (q : Nat) : List Nat := s.slabElems q 2 s.shape.count

def execVperm (d a b : VField) (ma mb : Bool) (s : State) : Out :=
  .next (s.readV a ma fun qa => s.readV b mb fun qb => s.destV d fun q =>
    s.check (decide (s.shape.count ≤ 1024)) .illegalOperand
      (let w := tyWidth s.shape.ty
       let n := passes s.shape.count (max w 2)
       let src := (s.shapeElems qa).toArray
       let es := (s.indices qb).map fun j => src[j]?.getD 0
       s.vecOut [d, a, b] [q] (s.arrayCells q w es) [] (n + 4) n (tyFp s.shape.ty) none))

/-- R179: the transpose, in the order of the destination. -/
def transposed (h : Shape) (src : List Nat) : List Nat :=
  let a := src.toArray
  (List.range h.cols).flatMap fun c => (List.range h.rows).map fun r => a[r * h.cols + c]?.getD 0

def execVtrans (d a : VField) (ma : Bool) (s : State) : Out :=
  .next (s.readV a ma fun qa => s.destV d fun q =>
    s.check (decide (s.shape.cols ≤ 64)) .illegalOperand
      (let w := tyWidth s.shape.ty
       let n := passes s.shape.count w
       s.vecOut [d, a] [q] (s.arrayCells q w (transposed s.shape (s.shapeElems qa))) [] (2 * n + 3) n
         (tyFp s.shape.ty) none))

/-- R180: every index of a range instruction lies within its eight slabs. -/
def indicesOk (w : Nat) (js : List Nat) : Bool := js.all fun j => decide (j * w + w ≤ 16384)

/-- R180: the eight slabs of a range. -/
def rangeSlabs (q : Nat) : List Nat := (List.range 8).map (q + ·)

/-- R162: g = ceil(E / 16). -/
def rangePasses (n : Nat) : Nat := ceilDiv n 16

def execVgath (d a b : VField) (ma mb : Bool) (s : State) : Out :=
  .next (s.readV a ma fun qa => s.readV b mb fun qb => s.destV d fun q =>
    let w := tyWidth s.shape.ty
    let js := s.indices qb
    s.check (decide (qa + 7 < s.myPart) && decide (s.shape.count ≤ 1024) && indicesOk w js) .illegalOperand
      (if (rangeSlabs qa).any s.me.slabEmpty.contains then (if ma then s.trapSlot .emptyRead else s.block)
       else
        let g := rangePasses s.shape.count
        let base := s.myCore.slabAddr s.cur.ctx qa
        let es := js.map fun j => cellNat s.myCore.df (base + j * w) w
        s.vecOut [d, a, b] [q] (s.arrayCells q w es) [] (g + 6) g (tyFp s.shape.ty) none))

def execVscat (d a b : VField) (ma mb : Bool) (s : State) : Out :=
  .next (s.readV a ma fun qa => s.readV b mb fun qb => s.destV d fun q =>
    let w := tyWidth s.shape.ty
    let js := s.indices qb
    s.check (decide (q + 7 < s.myPart) && decide (s.shape.count ≤ 1024) && indicesOk w js) .illegalOperand
      (let g := rangePasses s.shape.count
       let base := s.myCore.slabAddr s.cur.ctx q
       let cells := (js.zip (s.shapeElems qa)).flatMap fun p => slabCells (base + p.1 * w) (leBytes w p.2)
       s.vecOut [d, a, b] (rangeSlabs q) cells [] (g + 6) g (tyFp s.shape.ty) none))

/-! ### Conversion and requantisation (R106, R181, R182) -/

/-- The width of a conversion's source and destination. -/
def cvtSrcWidth (t : ElemTy) : CvtSrc → Nat
  | .shape => tyWidth t
  | .tap f => tapWidth f
def cvtDstWidth : CvtDst → Nat
  | .plain t => tyWidth t
  | .tap f => tapWidth f

/-- R181: the pairs of types that a conversion may name. -/
def cvtOk (t : ElemTy) (src : CvtSrc) (dt : CvtDst) : Bool :=
  match src, dt with
  | .shape, .plain _ => true
  | .shape, .tap _ => tyFp t
  | .tap _, .plain u => tyFp u
  | .tap _, .tap _ => true

/-- R106, R102: a conversion between element types of R58. -/
def cvtPlain (rm : RM) (t u : ElemTy) (x : Nat) : FpOut :=
  if tyFp t then
    let v := Fp.ofBits (tyPrec t) x
    if tyFp u then ⟨(v.round (tyPrec u) rm).bits, (v.round (tyPrec u) rm).fl ||| nvIf v.isSnan⟩
    else
      let (i, fl) := fpToInt rm (tyMin u) (tyMax u) v
      ⟨tyPat u i, fl⟩
  else if tyFp u then intToFp (tyPrec u) rm (tyVal t x)
  else ⟨tyPat u (satInt (tyMin u) (tyMax u) (tyVal t x)), 0⟩

/-- R106, R181: one element of a conversion, with its flags. -/
def cvtOne (rm : RM) (scale : Nat) (t : ElemTy) (src : CvtSrc) (dt : CvtDst) (x : Nat) : FpOut :=
  match src, dt with
  | .shape, .plain u => cvtPlain rm t u x
  | .shape, .tap g =>
    let n := tapBits g
    if scale = 0xFF then ⟨tapBox g (narCode n), Flags.nv⟩
    else
      let (c, fl) := encodeFp n ((Fp.ofBits (tyPrec t) x).shift (127 - scale))
      ⟨tapBox g c, fl⟩
  | .tap f, .plain u =>
    match decodeT (tapBits f) (tapCode f x) with
    | none => ⟨canonNan (tyPrec u), 0⟩
    | some v => if scale = 0xFF then ⟨canonNan (tyPrec u), 0⟩ else (scaleDy v scale).fp.round (tyPrec u) rm
  | .tap f, .tap g =>
    match decodeT (tapBits f) (tapCode f x) with
    | none => ⟨tapBox g (narCode (tapBits g)), 0⟩
    | some v =>
      if scale = 0xFF then ⟨tapBox g (narCode (tapBits g)), 0⟩
      else
        let (c, fl) := encodeT (tapBits g) v
        ⟨tapBox g c, fl⟩

def execVcvt (d a : VField) (ma : Bool) (dt : CvtDst) (src : CvtSrc) (rm : RM) (scale : Byte) (s : State) : Out :=
  .next (s.readV a ma fun qa => s.destV d fun q =>
    let h := s.shape
    let sw := cvtSrcWidth h.ty src
    let dw := cvtDstWidth dt
    s.check (decide (h.count * dw ≤ 2048) && decide (h.count * sw ≤ 2048) && cvtOk h.ty src dt) .illegalOperand
      (let rs := (s.slabElems qa sw h.count).map (cvtOne rm scale.toNat h.ty src dt)
       let n := passes h.count (max sw dw)
       s.vecOut [d, a] [q] (s.arrayCells q dw (rs.map (·.bits))) [] (n + 3) n true (some (allFlags rs))))

/-- R182: the width of a requantisation's source elements; none for an element type it does not take. -/
def reqSrcWidth (t : ElemTy) : ReqSrc → Option Nat
  | .shape => if t = .i32 ∨ tyFp t then some (tyWidth t) else none
  | .i8 => some 1
  | .tap f => some (tapWidth f)

/-- R182: the value of a source element whose block has scale eold. -/
def reqValue (t : ElemTy) (src : ReqSrc) (eold x : Nat) : Fp :=
  match src with
  | .shape => if tyFp t then Fp.ofBits (tyPrec t) x else Dy.fp ⟨tyVal t x, 0⟩
  | .i8 => if eold = 0xFF then .nan false else (scaleDy ⟨signedOf 8 x, 0⟩ eold).fp
  | .tap f =>
    match decodeT (tapBits f) (tapCode f x) with
    | none => .nan false
    | some v => if eold = 0xFF then .nan false else (scaleDy v eold).fp

/-- A list cut into rows of n. -/
def chunks {α : Type} (n : Nat) : Nat → List α → List (List α)
  | 0, _ => []
  | r + 1, xs => xs.take n :: chunks n r (xs.drop n)

/-- R160: the blocks of an array, row by row. -/
def blocksOf (h : Shape) (es : List Nat) : List (List Nat) :=
  (chunks h.cols h.rows es).flatMap fun row => chunks 64 (ceilDiv h.cols 64) row

def execVreq (d a : VField) (ma : Bool) (dt : ReqDst) (src : ReqSrc) (rm : RM) (sup : Bool) (scale : Byte)
    (s : State) : Out :=
  .next (s.readV a ma fun qa => s.destV d fun q =>
    let h := s.shape
    let t := reqTarget dt
    match reqSrcWidth h.ty src with
    | none => s.trapSlot .illegalOperand
    | some sw =>
      s.check (decide (h.count * sw ≤ 2048) && decide (h.count * t.width ≤ 2048)) .illegalOperand
        (let olds : List Nat := match src with
           | .shape => []
           | _ => (s.myCore.sideBytes s.cur.ctx qa).map BitVec.toNat
         let bs := blocksOf h (s.slabElems qa sw h.count)
         let rs := (bs.zip (List.range bs.length)).map fun b =>
           requantBlock t rm (if sup then some scale.toNat else none)
             (b.1.map (reqValue h.ty src (olds.getD b.2 127)))
         let side := (rs.map fun r => BitVec.ofNat 8 r.1) ++ List.replicate (128 - rs.length) (0 : Byte)
         let n := passes h.count (max sw t.width)
         s.vecOut [d, a] [q] (s.arrayCells q t.width (rs.flatMap (·.2.1)))
           (slabCells (s.myCore.sideAddr s.cur.ctx q) side) (2 * n + 6) (2 * n) true
           (some (rs.foldl (fun f r => f ||| r.2.2) 0))))

/-! ### Reductions and scans (R183, R184) -/

/-- Reduction operations of one element type. -/
def foldBits (g : Nat → Nat → Nat) : List Nat → Nat
  | [] => 0
  | x :: xs => xs.foldl g x

/-- R167, R183: minimum or maximum of a list of elements. -/
def reducePick (t : ElemTy) (wantMax : Bool) (xs : List Nat) : FpOut :=
  match xs with
  | [] => ⟨0, 0⟩
  | x :: rest =>
    if tyFp t then
      rest.foldl (fun a y =>
        let r := fpPick (tyPrec t) wantMax a.bits y
        ⟨r.bits, a.fl ||| r.fl⟩) (fpPick (tyPrec t) wantMax x x)
    else
      ⟨rest.foldl (fun a y => if (tyVal t y < tyVal t a) != wantMax then y else a) x, 0⟩

/-- R183: the exact sum, rounded once or wrapped. -/
def reduceSum (t : ElemTy) (rm : RM) (xs : List Nat) : FpOut :=
  if tyFp t then finish (tyPrec t) rm (sumFp rm (xs.map (Fp.ofBits (tyPrec t))))
  else ⟨tyPat t (xs.map (tyVal t)).sum, 0⟩

def reduce (t : ElemTy) (op : RedOp) (rm : RM) (xs : List Nat) : FpOut :=
  match op with
  | .sum => reduceSum t rm xs
  | .min => reducePick t false xs
  | .max => reducePick t true xs
  | .and => ⟨foldBits (· &&& ·) xs, 0⟩
  | .or => ⟨foldBits (· ||| ·) xs, 0⟩
  | .xor => ⟨foldBits (· ^^^ ·) xs, 0⟩

/-- The rows and the columns of an array. -/
def rowsOf (h : Shape) (es : List Nat) : List (List Nat) := chunks h.cols h.rows es
def colsOf (h : Shape) (es : List Nat) : List (List Nat) := chunks h.rows h.cols (transposed h es)

def execVred (d a : VField) (ma : Bool) (op : RedOp) (axis : RedAxis) (rm : RM) (s : State) : Out :=
  .next (s.readV a ma fun qa => s.destV d fun q =>
    let h := s.shape
    let w := tyWidth h.ty
    let es := s.shapeElems qa
    let base := s.myCore.slabAddr s.cur.ctx q
    let rs : List (Nat × FpOut) := match axis with
      | .row => (List.range h.rows).zip ((rowsOf h es).map (reduce h.ty op rm)) |>.map fun p => (p.1 * h.cols, p.2)
      | .col => (List.range h.cols).zip ((colsOf h es).map (reduce h.ty op rm))
      | .all => [(0, reduce h.ty op rm es)]
    let n := passes h.count w
    s.vecOut [d, a] [q] (rs.flatMap fun r => slabCells (base + r.1 * w) (leBytes w r.2.bits)) [] (n + 8) n (tyFp h.ty)
      (if tyFp h.ty then some (allFlags (rs.map (·.2))) else none))

/-- R184: the identity of an exclusive scan. -/
def scanZero (t : ElemTy) (op : ScanOp) : Nat :=
  match op with
  | .sum => 0
  | .min => if tyFp t then infBits (tyPrec t) false else tyPat t (tyMax t)
  | .max => if tyFp t then infBits (tyPrec t) true else tyPat t (tyMin t)

/-- R184: the reduction of a prefix of a line. -/
def scanStep (t : ElemTy) (op : ScanOp) (xs : List Nat) : FpOut :=
  match xs with
  | [] => ⟨scanZero t op, 0⟩
  | _ =>
    match op with
    | .sum => reduceSum t .rne xs
    | .min => reducePick t false xs
    | .max => reducePick t true xs

/-- R184: the outputs of a line. -/
def scanLine (t : ElemTy) (op : ScanOp) (ex : Bool) (xs : List Nat) : List FpOut :=
  (List.range xs.length).map fun j => scanStep t op (xs.take (if ex then j else j + 1))

def execVscan (d a : VField) (ma : Bool) (op : ScanOp) (col ex : Bool) (s : State) : Out :=
  .next (s.readV a ma fun qa => s.destV d fun q =>
    let h := s.shape
    let w := tyWidth h.ty
    let es := s.shapeElems qa
    let rs := ((if col then colsOf h es else rowsOf h es).map (scanLine h.ty op ex)).flatten
    let out := rs.map (·.bits)
    let n := passes h.count w
    s.vecOut [d, a] [q]
      (s.arrayCells q w (if col then transposed ⟨h.cols, h.rows, h.ty⟩ out else out)) [] (n + 8) n (tyFp h.ty)
      (if tyFp h.ty then some (allFlags rs) else none))

/-! ### Dot products and random numbers (R185, R186) -/

/-- R185: one INT32 element: the old value, and four products. -/
def dot4 (t : ElemTy) (old : Nat) (xs ys : List Nat) : Nat :=
  tyPat .i32 (satInt (tyMin .i32) (tyMax .i32)
    (tyVal .i32 old + ((xs.zip ys).map fun p => tyVal t p.1 * tyVal t p.2).sum))

def execVdot4 (d a b : VField) (ma mb : Bool) (s : State) : Out :=
  .next (s.readV a ma fun qa => s.readV b mb fun qb => s.readV d false fun q =>
    let h := s.shape
    s.check ((h.ty == .i8 || h.ty == .n8) && decide (h.cols % 4 = 0)) .illegalOperand
      (let m := h.count / 4
       let xs := chunks 4 m (s.shapeElems qa)
       let ys := chunks 4 m (s.shapeElems qb)
       let es := (s.slabElems q 4 m).zip (xs.zip ys) |>.map fun p => dot4 h.ty p.1 p.2.1 p.2.2
       let n := passes h.count 4
       s.vecOut [d, a, b] [q] (s.arrayCells q 4 es) [] (n + 3) n false none))

/-- R186. -/
def rngStep (key : Word) (c : Nat) : Nat :=
  let m := 2 ^ 32
  let x := c ^^^ bits key.toNat 31 0
  let x := x * 0x9E3779B1 % m
  let x := x ^^^ (x / 2 ^ 15)
  let x := (x + bits key.toNat 63 32) % m
  let x := x * 0x85EBCA77 % m
  x ^^^ (x / 2 ^ 13)

def execVrng (d a : VField) (b : SReg) (ma mb : Bool) (s : State) : Out :=
  .next (s.readV a ma fun qa => s.readS b mb fun key => s.destV d fun q =>
    s.check (s.shape.ty == .i32 || s.shape.ty == .n32) .illegalOperand
      (let n := passes s.shape.count 4
       s.vecOut [d, a] [q] (s.arrayCells q 4 ((s.shapeElems qa).map (rngStep key))) [] (n + 5) n false none))

/-! ### Set-up (R164 to R166) -/

/-- R164: VSHAPE takes a legal value. -/
def State.setShape (s : State) (v : BitVec 32) : State :=
  s.check (shapeOk v) .illegalOperand
    (s.vecNow fun s => (s.note 0xC8 (s.me.vshape.setWidth 64)).modMe fun c => { c with vshape := v &&& shapeMask })

def execVsetshapeReg (a : SReg) (ma : Bool) (s : State) : Out :=
  .next (s.readS a ma fun x => s.setShape (x.extractLsb' 0 32))
def execVsetshapeImm (w : Word32) (s : State) : Out := .next (s.setShape w)

def execVsetwin (a : SReg) (ma : Bool) (s : State) : Out :=
  .next (s.readS a ma fun x =>
    s.check (decide (x.toNat < s.myPart)) .illegalOperand
      (s.vecNow fun s => (s.note 0xC9 (s.me.vwin.setWidth 64)).modMe fun c => { c with vwin := x.setWidth 32 }))

def execVsetix (d : IxReg) (a : SReg) (ma : Bool) (s : State) : Out :=
  .next (s.readS a ma fun x =>
    s.check (ixOk s.myPart (x &&& ixMask)) .illegalOperand (s.vecNow fun s => s.ixWrite d (x &&& ixMask)))

/-! ### Special functions (R187 to R189) -/

/-- R188: commands that still hold their entry of the special-function queue: up to the end of their occupancy (DESIGN CHOICE,
log 59). -/
def Core.sfuHeld (k : Core) : List Nat := k.sfuQ.filter fun t => decide (k.cycle < t)

/-- A special-function instruction (R187, R188): 16 lanes, 4 queue entries, latency 11 + ceil(E / 16). -/
def State.sfu (s : State) (d a : VField) (ma : Bool) (f : Sfu) : State :=
  if !s.hasSfu then s.trapSlot .unimplemented
  else
    s.readV a ma fun qa => s.destV d fun q =>
      let h := s.shape
      s.check (tyFp h.ty) .illegalOperand
        (let k := s.myCore
         if 4 ≤ k.sfuHeld.length then s.block
         else
          let rs := (s.shapeElems qa).map (sfuOut (tyPrec h.ty) f)
          let n := ceilDiv h.count 16
          let start := k.sfuHeld.foldl max s.now
          let s := s.modMyCore fun k => { k with sfuQ := k.sfuHeld ++ [start + n] }
          let lat := start - s.now + 11 + n
          s.precise (some (allFlags rs)) lat fun s lat =>
            (s.slabWrite [q] (s.arrayCells q (tyWidth h.ty) (rs.map (·.bits))) [] lat true (allFlags rs)).postInc [d, a])

def execFexp2 (d a : VField) (ma : Bool) (s : State) : Out := .next (s.sfu d a ma .exp2)
def execFlog2 (d a : VField) (ma : Bool) (s : State) : Out := .next (s.sfu d a ma .log2)
def execFrcp (d a : VField) (ma : Bool) (s : State) : Out := .next (s.sfu d a ma .rcp)
def execFrsq (d a : VField) (ma : Bool) (s : State) : Out := .next (s.sfu d a ma .rsq)
def execFsin (d a : VField) (ma : Bool) (s : State) : Out := .next (s.sfu d a ma .sin)
def execFcos (d a : VField) (ma : Bool) (s : State) : Out := .next (s.sfu d a ma .cos)
def execFtanh (d a : VField) (ma : Bool) (s : State) : Out := .next (s.sfu d a ma .tanh)
def execFsigm (d a : VField) (ma : Bool) (s : State) : Out := .next (s.sfu d a ma .sigm)

end Sys2Proof.Machine
end

