-- ==== Sys2Proof/Machine/Tile.lean ====
section
/-! DEFINITION. Machine/Tile.lean: the T class (R190 to R206, R244): descriptors, the layout unit, tile loads
and stores, prefetch and the instruction-memory load, and the turns of the tile-walk engine. -/

namespace Sys2Proof.Machine

/-! ### Elements of a tile (R112, R114, R191, R198) -/

/-- R114: element i of packed b-bit elements. -/
def packed (b : Nat) (v i : Nat) : Nat := v / 2 ^ (b * i) % 2 ^ b

/-- R198, R112: the container of element i of a loaded row. -/
def rowBox (k : TileKind) (d : Desc) (main p1 p2 i : Nat) : Nat :=
  match k with
  | .t8 => packed 6 main i * 4 + packed 2 p1 i
  | .t12 => (packed 6 main i * 64 + packed 2 p1 i * 16 + packed 4 p2 i) * 16
  | _ => if d.geom = 2 then packed 6 main i * 4 else packed d.bits main i

/-- R218: the column sums and row sums of a 32 x 32 array, modulo 2^32. -/
def checkSums (rows : List (List Int)) : List Nat × List Nat :=
  ((List.range 32).map fun n => wrapTo 32 ((rows.map fun r => r.getD n 0).sum)
  , rows.map fun r => wrapTo 32 r.sum)

/-- R191: the sidecar bytes of the destination slabs of a load, slab after slab. -/
def tileSides (k : TileKind) (d : Desc) (scales : List Nat) (boxes : List (List Nat)) : List Byte :=
  let w := tileWidth k d
  if w = 4 then
    if k = .pair ∧ d.fmt = 5 then
      let (cols, rows) := checkSums (boxes.map fun r => r.map fun x => signedOf 32 x)
      elemBytes 4 cols ++ elemBytes 4 rows
    else List.replicate (128 * k.slabs) 0
  else
    (List.range k.slabs).flatMap fun j =>
      (((scales.drop (j * slabRows w)).take (slabRows w)).map (BitVec.ofNat 8)) ++ List.replicate (128 - slabRows w) 0

/-! ### The engine's queue (R205) -/

/-- Commands that still hold their entry. -/
def Core.tileHeld (k : Core) : Nat := (k.tileQ.filter fun m => decide (k.cycle < m.occEnd)).length

/-- R205: cycles of the port that a command takes; a TPF issues the given number of lines. -/
def tileOcc (op : TileOp) (k : TileKind) (d : Desc) (lines : Nat) : Nat :=
  match op with
  | .pf => 1 + lines
  | .pfl n => n
  | .imld _ _ len => ceilDiv len 128
  | .lds _ => 16
  | _ =>
    match k with
    | .t8 => 17
    | .t12 => 25
    | .pair => 32
    | .one => if d.geom = 2 then 13 else if d.geom = 1 then 17 else 16

/-- The tile with the coordinates moved by n tiles along dimension 1 (R204). -/
def TileCmd.down (m : TileCmd) (n : Nat) : TileCmd := { m with c1 := m.c1 + n * slabRows (tileWidth .one m.td) }

/-- R196, R204: offsets of record bytes of a tile, one in each line that a TLD of it would read. -/
def TileCmd.fetchOffs (m : TileCmd) : List Nat :=
  let w := tileWidth .one m.td
  (List.range (slabRows w)).flatMap fun r =>
    match rowSpan m.td (tileCols w) m.c0 (m.c1 + r) m.c2 m.c3 false with
    | none => []
    | some sp => sp.off :: (((List.range sp.len).map fun i => sp.off + i).filter fun o => o % 64 = 0) ++ sp.scale.toList

/-- R204: a line that a prefetch fetches: one of a page that caches hold, whose translation is not refused and which is not
poisoned. -/
def State.fetchLine (s : State) (d : Desc) (off : Nat) : Option (Nat × PageKind) :=
  match s.tileKey d false off with
  | .ok (_, .remote) | .ok (_, .uncached) => none
  | .ok (pa, kind) => if s.coh.poison.contains (lineOf pa) then none else some (lineOf pa, kind)
  | .error _ => none

/-- R204: the lines of a prefetch, those it skips left out. -/
def State.fetchLines (s : State) (m : TileCmd) : List (Nat × PageKind) :=
  let n := match m.op with
    | .pfl n => n
    | _ => 1
  distinct ((List.range n).flatMap fun j => (m.down j).fetchOffs.filterMap fun o => s.fetchLine m.td o)

/-- R204: the line of a prefetch is held: in the slice of the core's die, or in the L1D that serves a tile read of it (R252). -/
def State.fetchHeld (s : State) (c : CoreId) (l : Nat × PageKind) : Bool :=
  let t := s.lineAt l.1
  match l.2 with
  | .untracked _ => (s.utSlice (dieOf c) l.1).isSome
  | _ => (t.sliceHold (dieOf c)).valid || ((t.l1dHold c).owner && (t.l1dHold c).valid)

/-- R270: an address of each page that a command reads or writes. -/
def TileCmd.touches (m : TileCmd) : List Nat :=
  match m.op with
  | .lds src => [src.toNat, tensorByte src.toNat 0 2047]
  | .imld src _ len => [src.toNat, tensorByte src.toNat 0 (len - 1)]
  | .pfl n => (List.range n).flatMap fun j => (m.down j).pages
  | _ => m.pages

/-- R269: the longest path bound of a page of an engine's access. -/
def State.pageBound (s : State) (c : CoreId) (addr : Nat) : Nat :=
  match s.translate addr with
  | .fault => 0
  | .remote d => 2 * s.hopsTo d.toNat * 700 + 3400
  | .ok pa _ => if s.rangeOf pa = .host then 6800 else if s.rangeOf pa = .regs then 300 else max (s.coreAt c).lpddr ((s.coreAt c).l2Bound + 220)

/-- R271: the delivery bound of a TLDM to its members. -/
def State.deliveryBound (s : State) (c : CoreId) (members : List Nat) : Nat :=
  let near (id : Nat) : Bool := ((s.taskAt id).bind Task.loc).any fun p => dieOf p.1 == dieOf c
  let far (id : Nat) : Bool := ((s.taskAt id).bind Task.loc).any fun p => dieOf p.1 != dieOf c
  let saved (id : Nat) : Bool := ((s.taskAt id).bind Task.saved).isSome
  24 + 4 * (members.filter near).length + (if members.any far then 220 else 0)
    + if members.any saved then (s.coreAt c).lpddr else 0

/-- R204, R205, R269 to R271: the bound from the end of a command's occupancy to its landing, and the translation caches after
it. -/
def State.tileBound (s : State) (c : CoreId) (m : TileCmd) : Nat × State :=
  let at_ := m.touches
  let (xlat, s) := s.lookupAll c at_
  let path := at_.foldl (fun n a => max n (s.pageBound c a)) 0
  (match m.op with
   | .st | .stM => 2
   | .ldm _ ids => xlat + path + 2 + s.deliveryBound c ids
   | .pfl _ => ceilDiv (s.fetchLines m).length 16 * (xlat + path)
   | _ => xlat + path + 2, s)

/-- A command takes its entry; its destinations are empty until it lands (R65, R205). -/
def State.tileIssue (s : State) (fields : List VField) (op : TileOp) (d : Nat) (dests : List Nat)
    (td p1 p2 : Desc) (a b : Word) : State :=
  let k := s.myCore
  if 16 ≤ k.tileHeld then s.block
  else
    let cmd : TileCmd :=
      { x := s.cur.ctx, region := s.me.region, pos := s.cur.pos, addr := s.cur.addr, seq := s.me.seq
        occ := 0, occEnd := 0, due := 0, op := op, d := d, td := td, p1 := p1, p2 := p2
        c0 := bits a.toNat 31 0, c1 := bits a.toNat 63 32, c2 := bits b.toNat 31 0, c3 := bits b.toNat 63 32, todo := none }
    let occ := tileOcc op cmd.kind td (if op = .pf then ((s.fetchLines cmd).filter fun l => !s.fetchHeld s.cur.core l).length else 0)
    let fin := max s.now k.tFree + occ
    let (bound, s) := s.tileBound s.cur.core cmd
    let s := (s.modMyCore fun k =>
      { k with tileQ := k.tileQ ++ [{ cmd with occ := occ, occEnd := fin, due := fin + bound }], tFree := fin }).debit
        s.cur.core s.cur.ctx 0 0 (3 * occ)
    (s.modMe fun v =>
      { v with seq := v.seq + 1, slabEmpty := v.slabEmpty ++ dests.filter fun q => !v.slabEmpty.contains q }).postInc
        fields

/-! ### Meanings: descriptors, loads, stores, prefetch -/

def Ctx.tdOf (v : Ctx) (t : TdReg) : Desc := v.td[t.toNat]'t.isLt

/-- R193: TDESC waits until the port's tensor-entry cache holds the entry. -/
def execTdesc (d : TdReg) (a : SReg) (ma : Bool) (s : State) : Out :=
  .next (s.readS a ma fun x =>
    let id := bits x.toNat 63 48
    if !s.myCore.teCache.contains id then s.block
    else
      let e := s.descOf id
      let e : Desc := if e.valid then e else 0
      (s.modMyCore fun k => k.teUse id).modMe fun v =>
        { v with td := v.td.set d.toNat e d.isLt })

/-- R195: c0 is a multiple of 64 for a scaled or extension-plane geometry. -/
def coordOk (d : Desc) (a : Word) : Bool := d.geom = 0 || bits a.toNat 31 0 % 64 = 0

/-- R197, R202: a descriptor that a single-slab tile may name. -/
def singleOk (d : Desc) : Bool := d.valid && d.geom != 3 && (d.fmt != 11 || d.plane == 0)

/-- R197: the planes have equal dimensions. -/
def sameDims (d e : Desc) : Bool := (List.range 4).all fun i => d.dim i == e.dim i

/-- A descriptor of the given format, geometry and plane. -/
def Desc.is (d : Desc) (fmt geom plane : Nat) : Bool :=
  d.valid && d.fmt == fmt && d.geom == geom && d.plane == plane

/-- R197: the cases of a multi-slab tile; p1 and p2 are the numbers of the fields. -/
def multiKind (v : Ctx) (t p1 p2 : TdReg) : Option TileKind :=
  let d := v.tdOf t
  let e := v.tdOf p1
  let f := v.tdOf p2
  if d.is 10 2 0 && e.is 10 3 1 && p2 = 0 && sameDims d e then some .t8
  else if d.is 11 2 0 && e.is 11 3 1 && f.is 11 3 2 && sameDims d e && sameDims d f then some .t12
  else if d.valid && d.geom = 0 && 2 ≤ fmtWidth d.fmt && d.fmt ≠ 11 && p1 = 0 && p2 = 0 then some .pair
  else none

/-- The destination or source of a multi-slab tile. -/
def State.tilePair (s : State) (kind : TileKind) (f : VField) (k : Nat → State) : State :=
  if kind = .t8 then s.destV f k else s.destPair f k

def execTld (d : VField) (a b : SReg) (ma mb : Bool) (t : TdReg) (s : State) : Out :=
  .next (s.readSS a b ma mb fun x y =>
    let e := s.me.tdOf t
    s.check (singleOk e && coordOk e x) .illegalOperand
      (s.destV d fun q => s.tileIssue [d] .ld q [q] e 0 0 x y))

def execTldp (d : VField) (a b : SReg) (ma mb : Bool) (t p1 p2 : TdReg) (s : State) : Out :=
  .next (s.readSS a b ma mb fun x y =>
    let e := s.me.tdOf t
    match multiKind s.me t p1 p2 with
    | none => s.trapSlot .illegalOperand
    | some kind =>
      s.check (coordOk e x) .illegalOperand
        (s.tilePair kind d fun q =>
          s.tileIssue [d] .ldp q (if kind.slabs = 2 then [q, q + 1] else [q]) e (s.me.tdOf p1) (s.me.tdOf p2) x y))

/-- R200: the slabs of a member's partition: that of the context that holds it, or of its saved image. -/
def State.memberSlabs (s : State) (id : Nat) : Option Nat :=
  match s.taskAt id with
  | some t =>
    match t.loc, t.saved with
    | some (c, x), _ => some ((s.coreAt c).partSlabs x)
    | none, some (_, size) => some (size * 32)
    | none, none => none
  | none => none

def execTldm (d : VField) (a b : SReg) (ma mb : Bool) (t : TdReg) (c : SReg) (s : State) : Out :=
  .next (s.readSS a b ma mb fun x y => s.readS c false fun h =>
    let e := s.me.tdOf t
    let handle := h.extractLsb' 0 32
    s.check (singleOk e && coordOk e x && !castBad handle) .illegalOperand
      (s.destV d fun q =>
        match s.castLook handle with
        | none => s.trapSlot .staleHandle
        | some ent =>
          s.check ((match s.me.task with
              | some id => ent.members.contains id
              | none => false) && ent.members.all fun id =>
                (match s.memberSlabs id with
                | some n => decide (q < n)
                | none => true)) .illegalOperand
            (s.tileIssue [d] (.ldm handle ent.members) q [q] e 0 0 x y)))

def execTlds (d : VField) (a : SReg) (ma : Bool) (s : State) : Out :=
  .next (s.readS a ma fun x =>
    s.check (decide (x.toNat % 64 = 0)) .illegalOperand
      (s.destV d fun q => s.tileIssue [d] (.lds x) q [q] 0 0 0 0 0))

def execTst (d : VField) (a b : SReg) (ma mb : Bool) (t : TdReg) (s : State) : Out :=
  .next (s.readSS a b ma mb fun x y =>
    let e := s.me.tdOf t
    s.check (singleOk e && coordOk e x) .illegalOperand
      (s.readV d false fun q => s.tileIssue [d] .st q [] e 0 0 x y))

def execTstM (d : VField) (a b : SReg) (ma mb : Bool) (t p1 p2 : TdReg) (s : State) : Out :=
  .next (s.readSS a b ma mb fun x y =>
    let e := s.me.tdOf t
    match multiKind s.me t p1 p2 with
    | none => s.trapSlot .illegalOperand
    | some kind =>
      s.check (coordOk e x) .illegalOperand
        ((if kind = .t8 then s.readV d false else s.readPair d false) fun q =>
          s.tileIssue [d] .stM q [] e (s.me.tdOf p1) (s.me.tdOf p2) x y))

/-- R204: the checks of a prefetch are those of a TLD with the same operands. -/
def State.prefetch (s : State) (t : TdReg) (a b : SReg) (ma mb : Bool) (op : TileOp) : State :=
  s.readSS a b ma mb fun x y =>
    let e := s.me.tdOf t
    s.check (singleOk e && coordOk e x) .illegalOperand (s.tileIssue [] op 0 [] e 0 0 x y)

def execTpf (t : TdReg) (a b : SReg) (ma mb : Bool) (s : State) : Out := .next (s.prefetch t a b ma mb .pf)

def execTpfl (t : TdReg) (a b : SReg) (ma mb : Bool) (count : BitVec 8) (s : State) : Out :=
  .next (s.prefetch t a b ma mb (.pfl (count.toNat + 1)))

/-- R244: the operand rules of IMLD. -/
def imldOk (addr : BitVec 16) (x y : Word) : Bool :=
  let dst := bits y.toNat 15 0
  let len := bits y.toNat 31 16
  decide (x.toNat % 64 = 0) && decide (bits y.toNat 63 32 = 0) && decide (dst % 64 = 0) && decide (len % 64 = 0)
    && decide (64 ≤ len) && decide (len ≤ 32768) && decide (dst / 32768 = (dst + len - 1) / 32768)
    && decide (dst / 32768 ≠ addr.toNat / 32768)

def execImld (a b : SReg) (ma mb : Bool) (s : State) : Out :=
  .next (s.readSS a b ma mb fun x y =>
    s.check (imldOk s.cur.addr x y) .illegalOperand
      (s.tileIssue [] (.imld x (bits y.toNat 15 0) (bits y.toNat 31 16)) 0 [] 0 0 0 0 0))

/-! ### The engine's turns -/

/-- A command is done. -/
def State.tilePop (s : State) (c : CoreId) (m : TileCmd) : State := s.modCore c fun k => { k with tileQ := k.tileQ.erase m }

/-- A command goes on as m'. -/
def State.tilePut (s : State) (c : CoreId) (m m' : TileCmd) : State := s.modCore c fun k => { k with tileQ := k.tileQ.replace m m' }

/-- R201, R203, R380: a fault that the engine meets is a trapped rollback of its context's region. -/
def State.engineFault (s : State) (c : CoreId) (m : TileCmd) (e : Exc × Nat) : State :=
  s.trapRollback c m.x e.1 m.pos (BitVec.ofNat 64 e.2)

/-- R39: the space rule after an access of an engine, which goes on with k unless its region has overflowed. -/
def State.engineSpace (s : State) (c : CoreId) (m : TileCmd) (k : State → State) : State :=
  let s := s.spaceRule c m.x
  if (s.ctxAt c m.x).region = m.region then k s else s

/-- An engine read of the bytes at keys: it waits for space, tokens and data that it lacks, rolls back on poison and on a
refusal, records the bytes and goes on with their values (R39, R40, R201, R277, R396, R403). -/
def State.engineRead (s : State) (c : CoreId) (m : TileCmd) (keys : List (Nat × PageKind))
    (k : List Byte → State → State) : State :=
  let rest := (s.ctxAt c m.x).ungated m.seq keys
  if s.spaceWaits c m.x false keys then s
  else
    match s.acquire c m.x (trackedLines keys) with
    | (false, s) => s
    | (true, s) =>
      let (pinned, s) := (s.markLines rest).pinAll c m.x .engine true (trackedLines rest)
      match s.fetchAllUntracked c m.x false (untrackedLines rest) with
      | (false, s) => s.engineSpace c m fun s => s
      | (true, s) =>
        s.engineSpace c m fun s =>
          if !pinned then s
          else match s.consume keys rest with
          | (.poisoned l, s) => s.poisonHit c m.x l
          | (.refused a, s) => s.engineFault c m (.tileTable, a)
          | (.good, s) =>
            let (bs, s) := ((s.recordBytes c m.x keys).clearPort c (trackedLines rest)).loadBytes c m.x false m.seq keys
            k bs s

/-- The boxes and scales of the rows of a tile, from the bytes of their keys in order (R198). -/
def tileBoxes (kind : TileKind) (d : Desc) : List (Option RowKeys) → List Byte → List (List Nat × Nat)
  | [], _ => []
  | none :: rest, bs => (List.replicate (tileCols (tileWidth kind d)) 0, 127) :: tileBoxes kind d rest bs
  | some r :: rest, bs =>
    let (m, bs) := (bs.take r.main.length, bs.drop r.main.length)
    let (sc, bs) := (bs.take r.scale.length, bs.drop r.scale.length)
    let (p1, bs) := (bs.take r.p1.length, bs.drop r.p1.length)
    let (p2, bs) := (bs.take r.p2.length, bs.drop r.p2.length)
    let f := rowBox kind d (leVal m) (leVal p1) (leVal p2)
    let n := tileCols (tileWidth kind d)
    ((List.range n).map fun i => if i < r.n then f i else 0
    , if r.scale.isEmpty then 127 else leVal sc) :: tileBoxes kind d rest bs

/-- The cells of n bytes from slab q of a context on, and of its sidecars. -/
def Core.dataCells (k : Core) (x : CtxId) (q : Nat) (bs : List Byte) : List Host.Cell :=
  slabCells (k.slabAddr x q) bs
def Core.sideCells (k : Core) (x : CtxId) (q : Nat) (bs : List Byte) : List Host.Cell :=
  slabCells (k.sideAddr x q) bs

/-- A command's fill lands in its context (R65, R198). -/
def State.fillOwn (s : State) (c : CoreId) (m : TileCmd) (data side : List Byte) : State :=
  let s := (s.tilePop c m).modCore c fun k => k.landCells (k.dataCells m.x m.d data) (k.sideCells m.x m.d side)
  let t := (s.coreAt c).landTime m.due
  (((s.finSaw c m.x m.slabs t).slabsLanded c m.x m.slabs t).refill c m.x m.slabs).advanceDrain c m.x

/-- R200: a multicast tile lands in a member other than the issuer: in its partition, or in its saved image; all its bytes at once
(DESIGN CHOICE, log 53). -/
def State.fillMember (s : State) (own : CoreId × CtxId) (q : Nat) (data side : List Byte) (id : Nat) : State :=
  match s.taskAt id with
  | none => s
  | some t =>
    match t.loc, t.saved with
    | some (c, x), _ =>
      if (c, x) = own then s
      else s.modCore c fun k => k.landCells (k.dataCells x q data) (k.sideCells x q side)
    | none, some (base, size) =>
      let put (s : State) (off : Nat) (bs : List Byte) : State :=
        (bs.zip (List.range bs.length)).foldl (fun s b =>
          match s.translate (tensorByte base.toNat (off : Int) b.2) with
          | .ok pa _ => { s with mem := cellSet s.mem pa b.1 }
          | _ => s) s
      put (put s (0x2000 + q * 2048) data) (0x2000 + size * 65536 + q * 128) side
    | none, none => s

/-- The destinations of a command may be written (R65, R206). -/
def Core.fillReady (k : Core) (m : TileCmd) : Bool :=
  m.slabs.all fun q => !k.writerBefore m.x q m.seq && !k.readerBefore m.x q m.seq

/-- R205: a tile store of the context, ahead in the queue, that writes one of the bytes has still to enter the gate. -/
def State.storeAhead (s : State) (c : CoreId) (m : TileCmd) (keys : List (Nat × PageKind)) : Bool :=
  ((s.coreAt c).tileQ.takeWhile (· != m)).any fun n => n.x == m.x && n.isStore &&
    (match s.tileKeys n with
     | .ok rs => (rowsKeys rs).any fun k => keys.any fun l => l.1 == k.1
     | .error _ => true)

/-- A tile load lands (R198, R200), behind the stores ahead of it that write its bytes (R205). A TLDM lands in every member in the
one turn, so that no member reads a mix of old and new bytes (R284; DESIGN CHOICE, log 53). -/
def State.tileFill (s : State) (c : CoreId) (m : TileCmd) : State :=
  if !(s.coreAt c).fillReady m then s
  else
    match s.tileKeys m with
    | .error e => s.engineFault c m e
    | .ok rs =>
      if s.storeAhead c m (rowsKeys rs) then s else
      s.engineRead c m (rowsKeys rs) fun bs s =>
        let rows := tileBoxes m.kind m.td rs bs
        let w := tileWidth m.kind m.td
        let data := rows.flatMap fun r => elemBytes w r.1
        let side := tileSides m.kind m.td (rows.map (·.2)) (rows.map (·.1))
        match m.op with
        | .ldm h members =>
          let s := members.foldl (fun s id => s.fillMember (c, m.x) m.d data side id) s
          let s := s.modCtx c m.x fun v => { v with tldmSubs := v.tldmSubs ++ [h] }
          s.fillOwn c m data side
        | _ => s.fillOwn c m data side

/-- R199: a TLDS lands; the sidecar stays. -/
def State.rawFill (s : State) (c : CoreId) (m : TileCmd) (src : Word) : State :=
  if !(s.coreAt c).fillReady m then s
  else
    let addrs := (List.range 2048).map fun i => tensorByte src.toNat 0 i
    match s.keysOf false addrs with
    | .error a => s.engineFault c m (.tileTable, a)
    | .ok keys =>
      match (keys.zip addrs).find? fun k => k.1.2 == .ordered with
      | some k => s.engineFault c m (.ordering, k.2)
      | none => if s.storeAhead c m keys then s else s.engineRead c m keys fun bs s => s.fillOwn c m bs []

/-- R204, R262: a line that is not held is fetched: an untracked copy, or the token that a read takes; a TPFL uses the layout
instance of its slice. -/
def State.fetchGo (s : State) (c : CoreId) (m : TileCmd) (l : Nat × PageKind) : State :=
  let s := match m.op with
    | .pfl _ => s.modDie (dieOf c) fun v => v.layoutUse (sliceNo l.1) m.td.tid
    | _ => s
  match l.2 with
  | .untracked k =>
    let (here, s) := s.fetchUntracked c m.x false (l.1, k)
    if here then s.endUntracked c m.x [(l.1, k)] else s
  | k => (s.modLine l.1 fun v => { v with lclass := k.lclass }).requestRead c m.x .fetch l.1

/-- R204: a prefetch begins with the lines it does not skip, asks for those that are not held yet, and completes when
every line has been held. -/
def State.prefetchTurn (s : State) (c : CoreId) (m : TileCmd) (notify : Bool) : State :=
  let todo := m.todo.getD (s.fetchLines m)
  let s := (todo.filter fun l => !s.fetchHeld c l).foldl (fun s l => s.fetchGo c m l) s
  let left := todo.filter fun l => !s.fetchHeld c l
  if !left.isEmpty then s.tilePut c m { m with todo := some left }
  else
    let s := if notify then s.modCtx c m.x fun v => { v with tpfDone := v.tpfDone + 1 } else s
    (s.tilePop c m).advanceDrain c m.x

/-- R202: the bytes that one row of a tile store writes, for each of its keys. -/
def storeBytes (kind : TileKind) (d : Desc) (r : RowKeys) (boxes : List Nat) (scale : Byte) : List Byte :=
  let pack (b : Nat) (f : Nat → Nat) (n : Nat) : List Byte :=
    leBytes n (((boxes.take r.n).zip (List.range r.n)).foldl (fun v p => v + f p.1 % 2 ^ b * 2 ^ (b * p.2)) 0)
  let main := if kind = .t12 then pack 6 (· / 1024) r.main.length
    else if kind = .t8 ∨ d.geom = 2 then pack 6 (· / 4) r.main.length else pack d.bits id r.main.length
  let p1 := if kind = .t8 then pack 2 id r.p1.length else pack 2 (· / 256) r.p1.length
  main ++ (if r.scale.isEmpty then [] else [scale]) ++ p1 ++ pack 4 (· / 16) r.p2.length

/-- R202, R203, R368: a tile store reads its slabs and enters its bytes in the gate at its place of the
program order, once it has the space (R39) and its lines have their tokens back (R277). -/
def State.tileStore (s : State) (c : CoreId) (m : TileCmd) : State :=
  match s.tileKeys m with
  | .error e => s.engineFault c m e
  | .ok rs =>
    let k := s.coreAt c
    let w := tileWidth m.kind m.td
    let rows := chunks (tileCols w) rs.length
      (elems w (tileCols w * rs.length) (cellBytes k.df (k.slabAddr m.x m.d) (tileCols w * rs.length * w)))
    let side (r : Nat) : Byte := cellGet k.side (k.sideAddr m.x (m.d + r / slabRows w) + r % slabRows w)
    let out := (rs.zip rows).zip (List.range rs.length) |>.map fun p =>
      match p.1.1 with
      | some rk => storeBytes m.kind m.td rk p.1.2 (side p.2)
      | none => []
    let keys := rowsKeys rs
    if s.lentAny c (trackedLines keys) || s.spaceWaits c m.x true keys then s
    else
      match s.acquire c m.x (trackedLines keys) with
      | (false, s) => s
      | (true, s) =>
        match s.remoteRefused keys with
        | (some a, s) => s.engineFault c m (.tileTable, a)
        | (none, s) => (((s.tilePop c m).parityRead c m.x (slabSpans 2048 m.slabs)).gateStore c m.x m.seq false keys out.flatten).engineSpace c m fun s =>
          s.advanceDrain c m.x

/-- R227: bytes that an IMLD overwrites while a context may have fetched them ahead. -/
def State.aheadOf (s : State) (c : CoreId) (dst : Nat) (bs : List Byte) : State :=
  let k := s.coreAt c
  let old : List Host.Cell := (((List.range bs.length).map (dst + ·)).zip (cellBytes k.scratch dst bs.length)).zip bs
    |>.filterMap fun p => if p.1.2 = p.2 then none else some p.1
  allCtxs.foldl (fun s x =>
    if (s.ctxAt c x).occ = .free then s
    else s.modCtx c x fun v => { v with stale := v.stale ++ old.filter fun e => (assoc v.stale e.1).isNone }) s

def State.imldFrom (s : State) (c : CoreId) (m : TileCmd) (src : Word) (dst len : Nat) (addrs : List Nat)
    (r : Except Nat (List (Nat × PageKind))) : State :=
  match r with
  | .error a => s.engineFault c m (.tileTable, a)
  | .ok keys =>
    match (keys.zip addrs).find? fun k => k.1.2 == .ordered with
    | some k => s.engineFault c m (.ordering, k.2)
    | none =>
      if s.storeAhead c m keys then s else
      s.engineRead c m keys fun bs s =>
        let next : Word := BitVec.ofNat 64 (tensorByte src.toNat 64 0)
        let s := s.aheadOf c dst bs
        let s := s.modCore c fun k =>
          { k with scratch := cellWrite k.scratch dst bs, resid := k.resid.set (dst / 32768 % 2) none (Nat.mod_lt _ (by decide)) }
        let s := if len ≤ 64 then s.tilePop c m else s.tilePut c m { m with op := .imld next (dst + 64) (len - 64) }
        s.advanceDrain c m.x

/-- R244: the next line of an IMLD arrives and is written into the scratchpad. -/
def State.imldLine (s : State) (c : CoreId) (m : TileCmd) (src : Word) (dst len : Nat) : State :=
  let addrs := (List.range 64).map fun i => tensorByte src.toNat 0 i
  s.imldFrom c m src dst len addrs (s.keysOf false addrs)

/-- R244: the lines of an IMLD that are still to come, at most n of them. -/
def State.imldLines (s : State) (c : CoreId) (m : TileCmd) : Nat → State
  | 0 => s
  | n + 1 =>
    match m.op with
    | .imld src dst len =>
      let s := s.imldLine c m src dst len
      match (s.coreAt c).tileQ.find? fun p => p.x == m.x && p.seq == m.seq with
      | some p => if p == m then s else s.imldLines c p n
      | none => s
    | _ => s

/-- What a command does at its place in the engine: its data is at hand, or an IMLD's next line. -/
def State.tileDo (s : State) (c : CoreId) (m : TileCmd) : State :=
  match m.op with
  | .ld | .ldp | .ldm _ _ => s.tileFill c m
  | .lds src => s.rawFill c m src
  | .st | .stM => s.tileStore c m
  | .pf => s.prefetchTurn c m false
  | .pfl _ => s.prefetchTurn c m true
  | .imld src dst len => s.imldLine c m src dst len

/-- Commands that end at a tile load's landing or with a TPF. -/
def TileOp.isLoad : TileOp → Bool
  | .ld | .ldp | .ldm _ _ | .lds _ | .pf => true
  | _ => false
def TileOp.isStore : TileOp → Bool
  | .st | .stM => true
  | _ => false
def TileOp.isPfl : TileOp → Bool
  | .pfl _ => true
  | _ => false
def TileOp.isImld : TileOp → Bool
  | .imld _ _ _ => true
  | _ => false

/-- R205: the commands of a kind that have had their cycles of the port, in issue order. -/
def Core.tileReady (k : Core) (kind : TileOp → Bool) : List TileCmd := k.tileQ.filter fun m => decide (m.occEnd ≤ k.cycle) && kind m.op

/-- The first of these commands that can go on does. -/
def State.tileFirst (s : State) (c : CoreId) : List TileCmd → State
  | [] => s
  | m :: rest =>
    let t := s.tileDo c m
    if (t.coreAt c).tileQ == (s.coreAt c).tileQ then t.tileFirst c rest else t

/-- The landing of a tile load, or the end of a TPF (R198 to R200, R204). -/
def execTileFillLand (c : CoreId) (s : State) : Out := .next (s.tileFirst c ((s.coreAt c).tileReady TileOp.isLoad))

/-- R203: a tile store is performed. -/
def execTileStorePerform (c : CoreId) (s : State) : Out := .next (s.tileFirst c ((s.coreAt c).tileReady TileOp.isStore))

/-- R204: a TPFL completes. -/
def execTpflComplete (c : CoreId) (s : State) : Out := .next (s.tileFirst c ((s.coreAt c).tileReady TileOp.isPfl))

/-- R244: a line of an IMLD arrives. -/
def execImldLineArrive (c : CoreId) (s : State) : Out := .next (s.tileFirst c ((s.coreAt c).tileReady TileOp.isImld))

/-- R205: every command whose bound is over, in issue order. -/
def State.tileTurn (s : State) (c : CoreId) : State :=
  ((s.coreAt c).tileQ.filter fun m => decide (m.due < (s.coreAt c).cycle)).foldl (fun s m =>
    if !(s.coreAt c).tileQ.contains m then s
    else if m.op.isImld then s.imldLines c m 512
    else s.tileDo c m) s

end Sys2Proof.Machine
end

