-- ==== Sys2Proof/Machine/Matrix.lean ====
section
/-! DEFINITION. Machine/Matrix.lean: the M class (R207 to R222) and the turns of the matrix unit, with the fault
injector of R428 and R429. -/

namespace Sys2Proof.Machine

/-! ### Timing (R208, R216, R219, R221) -/

/-- R208: commands that hold their queue entry, up to their last occupied cycle. -/
def Core.matHeld (k : Core) : Nat :=
  (k.matQ.filter fun m => !(m.begun.isSome && m.closed && decide (m.fin < k.cycle))).length

/-- R216, R219: a command that starts only after landings: MRD after those of every earlier M command of its context, MFIN after
those of every earlier write of its pair. -/
def Core.matWaits (k : Core) (m : MatCmd) : Bool :=
  match m.op with
  | .rd _ _ _ _ => k.matQ.any fun n => n.x == m.x && decide (n.seq < m.seq)
  | .finI | .finF => m.reads.any fun q => k.writerBefore m.x q m.seq
  | _ => false

/-- R208: commands start in order, each in the cycle after the later of its issue and the end of the one ahead. -/
def Core.matPlan (k : Core) : Nat → List MatCmd → List MatCmd
  | _, [] => []
  | prev, m :: rest =>
    if m.begun.isNone && k.matWaits m then m :: rest
    else
      let m := { m with begun := some (m.begun.getD (max m.issue prev)) }
      m :: (if m.closed then k.matPlan (max prev m.fin) rest else rest)

def Core.matBegin (k : Core) : Core := { k with matQ := k.matPlan k.mFree k.matQ }

/-- R329: the energy units of a command; an MMA.AD is charged at the end of each of its rungs. -/
def MatCmd.energy (m : MatCmd) : Nat :=
  if m.op.isProduct ∧ m.mx.mlim = 0 then 1
  else
    match m.op with
    | .t6 => 160
    | .i8 | .t8 => 320
    | .bf | .t12 => 640
    | .ad => 0
    | .rd _ _ _ _ => 1
    | .zero | .finI | .finF | .cvt _ => 16

/-- R329: the energy units of the rung an MMA.AD has just run. -/
def MatCmd.rungEnergy (m : MatCmd) : Nat :=
  if m.mx.mlim = 0 then 0 else if m.rung = 0 then 160 else if m.rung = 1 then 320 else 640

/-! ### Issue (R208, R209) -/

/-- A command takes its queue entry with the matrix state as it stands; its destinations are empty. -/
def State.matIssue (s : State) (fields : List VField) (op : MatOp) (d a b : Nat) (dests : List Nat) : State :=
  let k := s.myCore
  if 8 ≤ k.matHeld then s.block
  else
    let v := s.me
    let cmd : MatCmd :=
      { x := s.cur.ctx, region := v.region, seq := v.seq, addr := s.cur.addr, issue := s.now, op := op, d := d
        a := a, b := b, mx := v.mx, begun := none, rung := 0, decided := false, ceiling := false, c6 := 0, c8 := 0, checked := false }
    let s := (s.modMyCore fun k => { k with matQ := k.matQ ++ [cmd] }).debit s.cur.core s.cur.ctx 0 0 cmd.energy
    (s.modMe fun v =>
      { v with seq := v.seq + 1, slabEmpty := v.slabEmpty ++ dests.filter fun q => !v.slabEmpty.contains q }).postInc
        fields

/-- A product instruction (R209): operand tiles of one slab or of an even pair each. -/
def State.product (s : State) (d a b : VField) (ma mb pair : Bool) (op : MatOp) : State :=
  let src (f : VField) (m : Bool) (k : Nat → State) : State := if pair then s.readPair f m k else s.readV f m k
  src a ma fun qa => src b mb fun qb => s.destPair d fun q => s.matIssue [d, a, b] op q qa qb [q, q + 1]

def execMmaI8 (d a b : VField) (ma mb : Bool) (s : State) : Out := .next (s.product d a b ma mb false .i8)
def execMmaBf (d a b : VField) (ma mb : Bool) (s : State) : Out := .next (s.product d a b ma mb true .bf)
def execMmaT6 (d a b : VField) (ma mb : Bool) (s : State) : Out := .next (s.product d a b ma mb false .t6)
def execMmaT8 (d a b : VField) (ma mb : Bool) (s : State) : Out := .next (s.product d a b ma mb false .t8)
/-- R209, R21: MMA.T12 needs the T12 rung. -/
def execMmaT12 (d a b : VField) (ma mb : Bool) (s : State) : Out :=
  .next (if s.hasT12 then s.product d a b ma mb true .t12 else s.trapSlot .unimplemented)
def execMmaAd (d a b : VField) (ma mb : Bool) (s : State) : Out :=
  .next (s.product d a b ma mb s.me.mx.cont .ad)

def execMzero (d : VField) (s : State) : Out :=
  .next (s.destPair d fun q => s.matIssue [d] .zero q 0 0 [q, q + 1])
def execMfinI (d : VField) (s : State) : Out := .next (s.destPair d fun q => s.matIssue [d] .finI q 0 0 [])
def execMfinF (d : VField) (s : State) : Out := .next (s.destPair d fun q => s.matIssue [d] .finF q 0 0 [])

/-- R220: MCVT. -/
def execMcvt (d a : VField) (ma : Bool) (toBf : Bool) (s : State) : Out :=
  .next (s.readPair a ma fun qa =>
    if toBf then s.destV d fun q => s.matIssue [d, a] (.cvt true) q qa 0 [q]
    else s.destPair d fun q => s.matIssue [d, a] (.cvt false) q qa 0 [q, q + 1])

/-- R211: MLIM takes a value from 0 to 32. -/
def State.setMlim (s : State) (v : Nat) : State :=
  s.check (decide (v ≤ 32)) .illegalOperand (s.modMe fun c => { c with mx := { c.mx with mlim := BitVec.ofNat 6 v } })

def execMlimImm (n : BitVec 6) (s : State) : Out := .next (s.setMlim n.toNat)
def execMlimReg (a : SReg) (ma : Bool) (s : State) : Out := .next (s.readS a ma fun x => s.setMlim x.toNat)

/-- R215: the fields of MBUD. -/
def MatrixRegs.budget (m : MatrixRegs) (x y : Word) : MatrixRegs :=
  { m with sat6 := x.extractLsb' 0 13, und6 := x.extractLsb' 13 13, can6 := x.extractLsb' 26 13
           cexp := x.extractLsb' 40 4, cont := x.getLsbD 48
           sat8 := y.extractLsb' 0 13, und8 := y.extractLsb' 13 13, can8 := y.extractLsb' 26 13 }

def execMbud (a b : SReg) (ma mb : Bool) (s : State) : Out :=
  .next (s.readSS a b ma mb fun x y => s.modMe fun c => { c with mx := c.mx.budget x y })

/-- R216: MRD. -/
def execMrd (d : SReg) (sel : BitVec 2) (clr : Bool) (s : State) : Out :=
  .next (s.check (!(clr && decide (sel.toNat < 2))) .illegalOperand
    (if 8 ≤ s.myCore.matHeld then s.block
     else
      let sh := s.me.r.isShadow d
      let due := max (s.now + 2) (s.me.sregAfter sh d)
      let s := s.matIssue [] (.rd sh d sel clr) 0 0 0 []
      let seq := s.me.seq - 1
      (s.modRegs fun r => r.markEmpty d).modMe fun v =>
        { v with pend := v.pend ++ [⟨seq, due, due, v.region, s.cur.pos, s.cur.addr, false, 0, .mrd sh d⟩] }))

/-! ### Reading operands (R190, R209) -/

/-- The 32 rows of 64 elements of w bytes from slab q on; a pair is contiguous. -/
def Core.matRows (k : Core) (x : CtxId) (q w : Nat) : List (List Nat) :=
  chunks 64 32 (elems w 2048 (cellBytes k.df (k.slabAddr x q) (2048 * w)))

/-- The accumulator of a pair: 32 rows of 32 elements of 4 bytes. -/
def Core.accRows (k : Core) (x : CtxId) (q : Nat) : List (List Nat) :=
  chunks 32 32 (elems 4 1024 (cellBytes k.df (k.slabAddr x q) 4096))

/-- R191: the scale of operand row m. -/
def Core.rowScale (k : Core) (x : CtxId) (q w m : Nat) : Nat :=
  (cellGet k.side (k.sideAddr x (q + m / slabRows w) + m % slabRows w)).toNat

/-- Width of the operand containers of a command. -/
def MatCmd.width (m : MatCmd) : Nat :=
  match m.op with
  | .bf | .t12 => 2
  | .ad => if m.mx.cont then 2 else 1
  | _ => 1

/-- The bits of the full code and of the view a product reads (R209, R212). -/
def MatCmd.full (m : MatCmd) : Nat := if m.width = 2 then 12 else 8
def MatCmd.view (m : MatCmd) : Nat :=
  match m.op with
  | .t6 => 6
  | .ad => if m.rung = 0 then 6 else if m.rung = 1 then 8 else 12
  | .t12 => 12
  | _ => 8

/-- The full codes of a row of containers (R112). -/
def MatCmd.codes (m : MatCmd) (row : List Nat) : List Nat := if m.width = 2 then row.map (· / 16) else row

/-! ### Products (R210, R116, R117) -/

/-- A row of operands with its scale. -/
structure OpRow where
  taps : Option (List Dy)
  fps : List Fp
  scale : Nat
deriving DecidableEq, Repr

/-- The operand rows of a floating-point product. -/
def MatCmd.opRows (m : MatCmd) (k : Core) (q : Nat) : List OpRow :=
  let rows := k.matRows m.x q m.width
  (rows.zip (List.range 32)).map fun r =>
    if m.op = .bf then ⟨some [], r.1.map (Fp.ofBits 8), 127⟩
    else ⟨tapRow m.view m.full (m.codes r.1), [], k.rowScale m.x q m.width r.2⟩

/-- The block dot product of two operand rows. -/
def MatCmd.dot (m : MatCmd) (a b : OpRow) : Fp × Flags :=
  if m.op = .bf then blockDotBf a.fps b.fps else blockDotTap a.taps a.scale b.taps b.scale

/-- R210: the new accumulator and the flags of a floating-point product. -/
def MatCmd.floatProduct (m : MatCmd) (k : Core) : List (List Nat) × Flags :=
  let as := (m.opRows k m.a).take m.mx.mlim.toNat
  let bs := m.opRows k m.b
  let rows := ((k.accRows m.x m.d).zip (List.range 32)).map fun r =>
    match as[r.2]? with
    | none => r.1.map fun c => (⟨c, 0⟩ : FpOut)
    | some a => (r.1.zip bs).map fun cb => accumulate cb.1 (m.dot a cb.2)
  (rows.map fun r => r.map (·.bits), rows.foldl (fun f r => f ||| allFlags r) 0)

/-- R100, R210: the exact value and the saturated value of an INT32 element. -/
def satAcc (c : Int) (a b : List Int) : Int × Int :=
  let x := c + blockDotInt a b
  (x, satInt (-(2 ^ 31)) (2 ^ 31 - 1) x)

/-- The signed bytes of operand rows. -/
def intRows (rows : List (List Nat)) : List (List Int) := rows.map fun r => r.map fun x => signedOf 8 x

/-- Component-wise sum of rows of 64. -/
def sumRows (rows : List (List Int)) : List Int := (List.range 64).map fun k => (rows.map fun r => r.getD k 0).sum

/-- R210, R218: MMA.I8: the new accumulator, and what is added to the checksum row and column. -/
def MatCmd.intProduct (m : MatCmd) (k : Core) : List (List Nat) × List Int × List Int :=
  let as := (intRows (k.matRows m.x m.a 1)).take m.mx.mlim.toNat
  let bs := intRows (k.matRows m.x m.b 1)
  let rows : List (List (Int × Int)) := ((k.accRows m.x m.d).zip (List.range 32)).map fun r =>
    match as[r.2]? with
    | none => r.1.map fun c => (signedOf 32 c, signedOf 32 c)
    | some a => (r.1.zip bs).map fun cb => satAcc (signedOf 32 cb.1) a cb.2
  let corr := rows.map fun r => r.map fun e => e.2 - e.1
  let aSum := sumRows as
  let bSum := sumRows bs
  (rows.map fun r => r.map fun e => wrapTo 32 e.2
  , (bs.zip (List.range 32)).map fun b => blockDotInt aSum b.1 + (corr.map fun r => r.getD b.2 0).sum
  , (List.range 32).map fun i =>
      (match as[i]? with
      | some a => blockDotInt a bSum
      | none => 0) + (corr.getD i []).sum)

/-! ### Monitors (R213) -/

/-- R213: SAT and UND of one element: its full code and the rung's view. -/
def monitorElem (view full code : Nat) : Nat × Nat :=
  match decodeT full code with
  | none => (0, 0)
  | some v =>
    if v.m = 0 then (0, 0)
    else
      match decodeT view (narrowView view full code) with
      | none => (0, 0)
      | some r => if r.m = 0 then (0, 1) else if r.log ≠ v.log then (1, 0) else (0, 0)

/-- R213: CAN of one output: |X| < 2^(-CEXP) * P. -/
def monitorOut (cexp : Nat) (a b : OpRow) : Nat :=
  match a.taps, b.taps with
  | some x, some y =>
    if a.scale = 0xFF ∨ b.scale = 0xFF then 0
    else
      let sum := dotDy x y
      let mag := dotDy (x.map Dy.abs) (y.map Dy.abs)
      boolNat (Dy.lt ⟨sum.abs.m, sum.e + cexp⟩ mag)
  | _, _ => 0

/-- The codes of the operand rows; scale 0xFF makes a row's elements NaR, which no monitor counts (R113, R213). -/
def MatCmd.rowCodes (m : MatCmd) (k : Core) (q : Nat) : List (List Nat) :=
  ((k.matRows m.x q m.width).zip (List.range 32)).map fun r =>
    if k.rowScale m.x q m.width r.2 = 0xFF then [] else m.codes r.1

/-- R213: the SAT, UND and CAN counts of the rung a command has reached. -/
def MatCmd.monitors (m : MatCmd) (k : Core) : Nat × Nat × Nat :=
  let l := m.mx.mlim.toNat
  let codes := ((m.rowCodes k m.a).take l ++ m.rowCodes k m.b).flatten
  let es := codes.map (monitorElem m.view m.full)
  let as := (m.opRows k m.a).take l
  let bs := m.opRows k m.b
  ((es.map (·.1)).sum, (es.map (·.2)).sum
  , ((as.map fun a => (bs.map (monitorOut m.mx.cexp.toNat a)).sum)).sum)

/-- R216: a counts word. -/
def countsWord (n : Nat × Nat × Nat) : Word :=
  BitVec.ofNat 64 (min n.1 8191 + 2 ^ 13 * min n.2.1 8191 + 2 ^ 26 * min n.2.2 8191)

/-- R213: a count of the rung exceeds its budget. -/
def MatCmd.exceeds (m : MatCmd) (n : Nat × Nat × Nat) : Bool :=
  let (bs, bu, bc) := if m.rung = 0 then (m.mx.sat6, m.mx.und6, m.mx.can6) else (m.mx.sat8, m.mx.und8, m.mx.can8)
  let beyond (b : BitVec 13) (v : Nat) : Bool := b != 0x1FFF && decide (b.toNat < v)
  beyond bs n.1 || beyond bu n.2.1 || beyond bc n.2.2

/-- R213: the rung is the container's full width. -/
def MatCmd.top (m : MatCmd) : Bool := m.rung = if m.mx.cont then 2 else 1

/-- R214: the verdict at the end of a rung of MMA.AD. -/
def MatCmd.verdict (m : MatCmd) (k : Core) (t12 : Bool) : MatCmd :=
  if m.mx.mlim = 0 ∨ m.top then { m with decided := true }
  else
    let n := m.monitors k
    let m := if m.rung = 0 then { m with c6 := countsWord n } else { m with c8 := countsWord n }
    if !m.exceeds n then { m with decided := true }
    else if m.rung = 1 ∧ m.mx.cont ∧ !t12 then { m with decided := true, ceiling := true }
    else { m with rung := m.rung + 1 }

/-! ### Statistics (R207, R214, R216) -/

/-- R214: the statistics after an MMA.AD has landed. -/
def MStats.after (t : MStats) (m : MatCmd) : MStats :=
  { rung6 := m.c6 ||| BitVec.ofNat 64 (m.rung * 2 ^ 40 + boolNat m.ceiling * 2 ^ 42), rung8 := m.c8
    replays := t.replays + BitVec.ofNat 32 m.rung
    widened := if m.rung = 0 then t.widened else t.widened + 1, adops := t.adops + 1 }

/-- R216: the value MRD reads. -/
def MStats.read (t : MStats) (sel : BitVec 2) : Word :=
  match sel.toNat with
  | 0 => t.rung6
  | 1 => t.rung8
  | 2 => t.widened ++ t.replays
  | _ => t.adops.setWidth 64

/-- R216: CLR clears the fields read under SEL 2 or 3. -/
def MStats.clear (t : MStats) (sel : BitVec 2) : MStats :=
  if sel = 2 then { t with replays := 0, widened := 0 } else if sel = 3 then { t with adops := 0 } else t

/-! ### Landing (R210, R214, R217 to R220) -/

/-- The bytes of a pair's accumulator. -/
def accBytes (rows : List (List Nat)) : List Byte := rows.flatMap fun r => elemBytes 4 r

/-- The 32 entries of a checksum sidecar. -/
def Core.checks (k : Core) (x : CtxId) (q : Nat) : List Nat := elems 4 32 (k.sideBytes x q)

/-- R218: entries of a checksum sidecar with amounts added, modulo 2^32. -/
def addChecks (old : List Nat) (ds : List Int) : List Byte :=
  elemBytes 4 ((old.zip ds).map fun p => wrapTo 32 ((p.1 : Int) + p.2))

/-- R429: the injection fires at the landing of a product of the context over the armed word. -/
def State.injects (s : State) (c : CoreId) (m : MatCmd) : Bool :=
  let f := s.dev.finj
  let word := bits f.toNat 40 32
  let slab := bits f.toNat 31 23
  f.getLsbD 0 && bits f.toNat 14 8 == c.toNat && f.getLsbD (16 + m.x.toNat) && m.op.isProduct
    && (slab == m.d || slab == m.d + 1)
    && decide ((slab - m.d) * 16 + word / 32 < m.mx.mlim.toNat)

/-- R428, R429: the injection inverts a bit of the word just written. -/
def State.inject (s : State) (c : CoreId) (m : MatCmd) : State :=
  if s.injects c m then
    let f := s.dev.finj.toNat
    let bit := bits f 52 48
    let k := s.coreAt c
    let word := (k.slabAddr m.x (bits f 31 23)) / 4 + bits f 40 32
    let a := word * 4 + bit / 8
    let s := s.setCore c
      { k with df := cellSet k.df a (cellGet k.df a ^^^ BitVec.ofNat 8 (2 ^ (bit % 8)))
               badWords := if bitAt f 2 then distinct (k.badWords ++ [word]) else k.badWords }
    s.modDev fun d => { d with finj := (d.finj &&& ~~~1) ||| 2 }
  else s

/-- What a landing writes: data and sidecar bytes from the destination's first slab on, and flags. -/
structure MatOut where
  data : List Byte
  side : List Byte
  fl : Flags
deriving DecidableEq, Repr

/-- R219: the first differing index of two lists of checksums. -/
def firstDiff (a b : List Nat) : Option Nat := ((a.zip b).zip (List.range 32)).findSome? fun p =>
  if p.1.1 = p.1.2 then none else some p.2

/-- R430: the SYND of a checksum mismatch. -/
def synd (row col : Option Nat) : BitVec 16 :=
  BitVec.ofNat 16 ((row.map fun n => n + 32).getD 0 + 256 * (col.map fun n => n + 32).getD 0)

/-- R219: MFIN.I compares the sums of the stored accumulator with the sidecars; a mismatch is reported within 8
cycles (R368). -/
def State.finCheck (s : State) (c : CoreId) (m : MatCmd) : State :=
  let k := s.coreAt c
  let (cols, rows) := checkSums ((k.accRows m.x m.d).map fun r => r.map fun x => signedOf 32 x)
  let a := firstDiff cols (k.checks m.x m.d)
  let b := firstDiff rows (k.checks m.x (m.d + 1))
  if a.isSome || b.isSome then s.raiseReport c m.x (m.fin + m.tail) 8 0x09 (BitVec.ofNat 64 (k.partBase m.x + m.d)) (synd a b)
  else s

/-- R210, R217, R220: what a command writes at its landing; none for one that writes no slab. MCVT.BF raises the UF that RoundBF16
gives (R104; DEDUCED, log 57). -/
def MatCmd.out (m : MatCmd) (k : Core) : Option MatOut :=
  if m.op.isProduct ∧ m.mx.mlim = 0 then none
  else
    match m.op with
    | .i8 =>
      let (c, row, col) := m.intProduct k
      some ⟨accBytes c, addChecks (k.checks m.x m.d) row ++ addChecks (k.checks m.x (m.d + 1)) col, 0⟩
    | .bf | .t6 | .t8 | .t12 | .ad =>
      let (c, fl) := m.floatProduct k
      some ⟨accBytes c, [], fl⟩
    | .zero => some ⟨List.replicate 4096 0, List.replicate 256 0, 0⟩
    | .cvt toBf =>
      let xs := (k.accRows m.x m.a).flatten
      if toBf then
        let rs := xs.map fun x =>
          let v := Fp.ofBits 24 x
          (⟨(v.round 8 .rne).bits, (v.round 8 .rne).fl ||| nvIf v.isSnan⟩ : FpOut)
        some ⟨elemBytes 2 (rs.map (·.bits)), List.replicate 128 0, allFlags rs⟩
      else
        let rs := xs.map fun x => intToFp 24 .rne (signedOf 32 x)
        some ⟨elemBytes 4 (rs.map (·.bits)), List.replicate 256 0, allFlags rs⟩
    | .finI | .finF | .rd _ _ _ _ => none

/-- R216: MRD's value is read, and its register is written in the next cycle. -/
def Ctx.mrdDone (v : Ctx) (m : MatCmd) (cycle : Nat) : Ctx :=
  match m.op with
  | .rd sh n sel clr =>
    { v with
      pend := v.pend.map fun p =>
        if p.seq = m.seq then { p with early := cycle, due := cycle, kind := .sreg sh n (v.r.stats.read sel) } else p
      r := if clr then { v.r with stats := v.r.stats.clear sel } else v.r }
  | _ => v

/-- R214: the effects of a landed MMA.AD on statistics and STATUS.RUNG_CEIL. -/
def Ctx.adDone (v : Ctx) (m : MatCmd) : Ctx :=
  if m.op = .ad then
    { v with r := { v.r with stats := v.r.stats.after m }
             statusHi := if m.ceiling then v.statusHi ||| 0x100 else v.statusHi }
  else v

/-- R216, R219: a result of the context that landed in cycle t is one that MRD, or an MFIN of one of the slabs, waited for. -/
def Core.matSaw (k : Core) (m : MatCmd) (t : Nat) : Core :=
  { k with matQ := k.matQ.map fun n =>
    let waits : Bool := match n.op with
      | .rd _ _ _ _ => true
      | _ => n.waitsFor m.writes
    if n.x == m.x && n.begun.isNone && waits then { n with issue := max n.issue t } else n }

/-- R211, R368: the bytes of its partition that a command reads: of a product the rows below MLIM of its A operand and of its
accumulator, and all of its B operand; none at MLIM 0. -/
def MatCmd.spans (m : MatCmd) : List (Nat × Nat) :=
  let l := m.mx.mlim.toNat
  if !m.op.isProduct then slabSpans 2048 m.reads
  else if l = 0 then []
  else [(2048 * m.a, 64 * m.width * l), (2048 * m.b, 2048 * m.width), (2048 * m.d, 128 * l)]

/-- R211: the bytes that a landing writes: of a product the rows below MLIM. -/
def MatCmd.written (m : MatCmd) (data : List Byte) : List Byte := if m.op.isProduct then data.take (128 * m.mx.mlim.toNat) else data

/-- R368: the parity of what a command reads is checked at the end of its occupancy, or of its first rung (log 61). -/
def State.matCheck (s : State) (c : CoreId) : State :=
  let k := s.coreAt c
  let due (m : MatCmd) : Bool := m.begun.isSome && !m.checked && decide (m.fin ≤ k.cycle)
  (k.matQ.filter due).foldl (fun s m => s.parityRead c m.x m.spans)
    (s.modCore c fun k => { k with matQ := k.matQ.map fun m => if due m then { m with checked := true } else m })

/-- R208, R368: the commands of the matrix queue that can start now have started, and what has read is checked. -/
def State.matBegun (s : State) (c : CoreId) : State := (s.modCore c Core.matBegin).matCheck c

/-- A command of the queue lands. -/
def State.matLand (s : State) (c : CoreId) (m : MatCmd) : State :=
  let t := (s.coreAt c).landTime (m.fin + m.tail)
  let s := s.modCore c fun k => { k with matQ := k.matQ.filter fun n => !(n.x == m.x && n.seq == m.seq), mFree := max k.mFree m.fin }
  let s := match m.out (s.coreAt c) with
    | none => s
    | some o =>
      let s := s.modCore c fun k => k.landCells (k.dataCells m.x m.d (m.written o.data)) (k.sideCells m.x m.d o.side)
      (s.inject c m).modCtx c m.x fun v => { v with r := v.r.raiseFlags m.addr 6 o.fl true (t, m.seq) }
  let s := s.modCtx c m.x fun v => (v.adDone m).mrdDone m t
  let s := if m.op = .finI then s.finCheck c m else s
  (((s.slabsLanded c m.x m.writes t).modCore c fun k => k.matSaw m t).refill c m.x m.writes).advanceDrain c m.x

/-- The destinations of a command may be written (R65, R206). -/
def Core.matReady (k : Core) (m : MatCmd) : Bool :=
  m.writes.all fun q => !k.writerBefore m.x q m.seq && !k.readerBefore m.x q m.seq

/-- R66, R221: the command whose result lands next, once its cycle has passed. -/
def Core.matNext (k : Core) : Option MatCmd :=
  (k.matQ.filter fun m => m.begun.isSome && m.closed && decide (m.fin + m.tail < k.cycle) && k.matReady m).foldl (fun best m =>
    match best with
    | none => some m
    | some b => if m.fin + m.tail < b.fin + b.tail then some m else some b) none

/-- R66, R221: the result of a command of the matrix queue has landed. -/
def State.matLandNext (s : State) (c : CoreId) : State :=
  let s := s.matBegun c
  match (s.coreAt c).matNext with
  | some m => s.matLand c m
  | none => s

def execMatrixResultLand (c : CoreId) (s : State) : Out := .next (s.matLandNext c)

/-- R214: the MMA.AD in the unit whose rung has ended without a verdict. -/
def Core.rungNow (k : Core) : Option MatCmd :=
  k.matQ.find? fun m => m.op == .ad && !m.decided && m.begun.isSome && decide (m.fin ≤ k.cycle)

/-- R214: a rung of the MMA.AD in the matrix unit ends with its verdict. -/
def State.rungEnd (s : State) (c : CoreId) : State :=
  let s := s.matBegun c
  let k := s.coreAt c
  match k.rungNow with
  | some m =>
    let m' := m.verdict k s.hasT12
    (s.setCore c { k with matQ := k.matQ.map fun n => if n.x == m.x && n.seq == m.seq then m' else n }).debit c m.x 0 0 m.rungEnergy
  | none => s

def execMmaAdRungEnd (c : CoreId) (s : State) : Out := .next (s.rungEnd c)

/-- R214, R221: the matrix unit, until nothing more ends in it now. -/
def State.matTurn (s : State) (c : CoreId) : Nat → State
  | 0 => s
  | n + 1 =>
    let s := s.matBegun c
    if (s.coreAt c).rungNow.isSome then (s.rungEnd c).matTurn c n
    else if (s.coreAt c).matNext.isSome then (s.matLandNext c).matTurn c n
    else s

end Sys2Proof.Machine
end

