-- ==== Sys2Proof/Machine/Bundle.lean ====
section
/-! DEFINITION. Machine/Bundle.lean: what every bundle does around its slots (R37, R38, R87, R88, R147, R236,
R328), the three bundle steps, and the turns that end a wait (R41, R65). -/

namespace Sys2Proof.Machine

/-! ### Around the slots -/

/-- R37, R38: the bundle starts a region when none is open. -/
def State.startRegion (s : State) : State := if s.me.opened then s else s.modMe Ctx.openRegion

/-- The cycles a bundle took pass on its core; its task is debited for them and for the energy (R328, R329). -/
def State.spend (s : State) (cycles energy : Nat) : State :=
  (s.modMyCore fun k => { k with cycle := k.cycle + cycles }).debit s.cur.core s.cur.ctx cycles 0 energy

/-- R154: the task parks after a commit of the open region. The request stands until it is parked, so that a region which
rolls back in that commit meets it again. -/
def State.commitAndPark (s : State) : State := (s.modMe fun v => { v with after := .park }).beginCommit s.cur.core s.cur.ctx

/-- The bundle that a context leaves is over: the distances of R88, and no slot to start the next one from. -/
def Ctx.pastBundle (v : Ctx) : Ctx := { v with predAge := v.olderP, skips := 0, reslot := none }

/-- R154, R400: what follows a bundle at which a loop stops the context: with a request that can be taken its region commits and it
parks; else its region commits, so that another context of the core can run solo, and it starts the prologue of a drained loop
again. -/
def State.stopAtLoop (s : State) : State :=
  if s.preemptible s.cur.core s.cur.ctx then
    if s.me.opened then s.commitAndPark else s.parkCtx s.cur.core s.cur.ctx .preempt
  else
    let s := s.modRegs Regs.refill
    if s.me.opened then s.beginCommit s.cur.core s.cur.ctx else s

/-- A bundle that no trap, wait or departure ended moves on: the pc through a taken branch or the loop engine
(R147, R152), the distances of R88, and a stop at an iteration's end (R154). -/
def State.moveOn (s : State) : State :=
  let (stops, s) := s.advancePc
  let s := s.modMe Ctx.pastBundle
  if stops then s.stopAtLoop else s

/-- A bundle that commits of itself moves on: a request waits for that commit, which is the first pre-emption point (R154). -/
def State.moveOnCommits (s : State) : State :=
  let (drained, s) := s.advanceBy false
  let s := s.modMe Ctx.pastBundle
  if drained && !s.preemptible s.cur.core s.cur.ctx then s.modRegs Regs.refill else s

/-- The end of a bundle's issue cycle, with the way on of a bundle that nothing ended. -/
def State.finishBy (s : State) (on : State → State) (energy : Nat) : State :=
  let s := if s.cur.stop = .going then on s else s
  s.spend (1 + s.cur.cost) energy

/-- The end of a bundle's issue cycle. -/
def State.finish (s : State) (energy : Nat) : State := s.finishBy State.moveOn energy

/-! ### User-level interrupts (R236) -/

/-- R236: a delivery is possible. -/
def Ctx.uiReady (v : Ctx) : Bool := v.r.uien && !v.r.inui && v.uicause.getLsbD 0

/-- R236, R385: delivery: UIEPC takes the next bundle's address and the handler is entered; an illegal UIVEC
raises the illegal-operand exception there. UIVEC, as UIEPC at UIRET, gives all 16 bits of the pc, its half among them, though
R125 does not list the delivery with what changes the active half (DEDUCED from R236 and R237, log 37). -/
def State.deliverUi (s : State) (c : CoreId) (x : CtxId) : State :=
  let v := s.ctxAt c x
  if !v.uiReady then s
  else if v.uivec.extractLsb' 0 2 ≠ 0 then s.trapEntry c x ⟨.illegalOperand, 0, 7, 0, v.r.pc, 0, 0, []⟩
  else
    (s.setCtx c x { v with
      uiepc := v.r.pc.setWidth 64
      r := { v.r with inui := true, pc := v.uivec.extractLsb' 0 16 } }).modCore c fun k => { k with cycle := k.cycle + 2 }

/-- R48, R154, R236: after a commit point: a pre-emption request is taken, but for one that a loop's drain is on the way to, otherwise
a user-level interrupt is delivered. -/
def State.afterPoint (s : State) (c : CoreId) (x : CtxId) : State :=
  if s.preemptible c x && !(s.ctxAt c x).draining then s.parkCtx c x .preempt else s.deliverUi c x

/-! ### The bundle steps (R79, R87, R37) -/

/-- R79: an empty bundle issues in one cycle. Its RS bit has been honoured before it issues (R37). -/
def execEmptyBundle (_rs _cgn : Bool) (_cg : PReg) (s : State) : Out := .next (s.startRegion.finish 1)

/-- R88: the cost of a skipped bundle: an empty issue cycle within distance 2 of the predicate's writer, and one
for every further run of four consecutive ones that cost nothing. -/
def Ctx.skipCost (v : Ctx) (cg : PReg) : Nat :=
  if (v.predAge[cg.toNat]'cg.isLt) < 3 then 1 else if v.skips % 4 = 0 ∧ v.skips ≠ 0 then 1 else 0

/-- R87, R88: the nullifier passes over a bundle of the given length; the loop engine counts it like any other
(R152). Its RS bit is kept for the next bundle that issues. -/
def execBundleSkip (rs : Bool) (cg : PReg) (bytes : BitVec 6) (s : State) : Out :=
  .next (let cost := s.me.skipCost cg
    let near : Bool := decide ((s.me.predAge[cg.toNat]'cg.isLt) < 3)
    let n := if near then 0 else s.me.skips + 1
    let s := s.modCur fun u => { u with next := seqPc s.me.r.pc bytes.toNat, br := none }
    (s.moveOn.modMe fun v => { v with skips := n, rsDue := v.rsDue || (rs && v.opened) }).spend cost cost)

/-- R37: the open region commits before a bundle whose RS bit is set. -/
def execImplicitRegionCommit (s : State) : Out :=
  .next (if s.me.opened && s.me.cm.phase == .idle then
      (s.beginCommit s.cur.core s.cur.ctx).modCur fun u => { u with stop := .left }
    else s)

/-! ### Turns that end a wait -/

/-- R65: the first result of the context that can land in this cycle lands. -/
def execResultLand (c : CoreId) (x : CtxId) (s : State) : Out :=
  .next (s.landFirst c x true (s.ctxAt c x).pend).2

/-- R41: the horizon wait of a context's commit ends. -/
def execHorizonWaitEnd (c : CoreId) (x : CtxId) (s : State) : Out := .next (s.endHorizon c x)

end Sys2Proof.Machine
end

