-- ==== Sys2Proof/Machine/Sha3.lean ====
section
/-! DEFINITION. Machine/Sha3.lean: SHA3-512 of a string of bytes (FIPS 202), which R342 and R344 name. -/

namespace Sys2Proof.Machine

/-- The state of Keccak-f: lane (x, y) is entry x + 5y. -/
abbrev Keccak := Vector (BitVec 64) 25

def Keccak.lane (a : Keccak) (x y : Nat) : BitVec 64 := a[(x % 5 + 5 * (y % 5)) % 25]!

/-- FIPS 202, 3.2.2: the rotations of rho, in the order of the lanes. -/
def rhoOffsets : List Nat :=
  [0, 1, 62, 28, 27, 36, 44, 6, 55, 20, 3, 10, 43, 25, 39, 41, 45, 15, 21, 8, 18, 2, 61, 56, 14]

/-- FIPS 202, 3.2.5: the round constants of iota. -/
def iotaConstants : List (BitVec 64) :=
  [0x0000000000000001, 0x0000000000008082, 0x800000000000808A, 0x8000000080008000, 0x000000000000808B, 0x0000000080000001
  , 0x8000000080008081, 0x8000000000008009, 0x000000000000008A, 0x0000000000000088, 0x0000000080008009, 0x000000008000000A]
  ++ [0x000000008000808B, 0x800000000000008B, 0x8000000000008089, 0x8000000000008003, 0x8000000000008002, 0x8000000000000080
  , 0x000000000000800A, 0x800000008000000A, 0x8000000080008081, 0x8000000000008080, 0x0000000080000001, 0x8000000080008008]

def Keccak.ofLanes (f : Nat → Nat → BitVec 64) : Keccak := Vector.ofFn fun i => f (i.val % 5) (i.val / 5)

/-- FIPS 202, 3.2.1. -/
def Keccak.theta (a : Keccak) : Keccak :=
  let col : List (BitVec 64) := (List.range 5).map fun x => (List.range 5).foldl (fun c y => c ^^^ a.lane x y) 0
  let c (x : Nat) : BitVec 64 := col.getD (x % 5) 0
  Keccak.ofLanes fun x y => a.lane x y ^^^ c (x + 4) ^^^ (c (x + 1)).rotateLeft 1

/-- FIPS 202, 3.2.2 and 3.2.3. -/
def Keccak.rhoPi (a : Keccak) : Keccak :=
  Keccak.ofLanes fun x y =>
    let z := (x + 3 * y) % 5
    (a.lane z x).rotateLeft (rhoOffsets.getD (z + 5 * x) 0)

/-- FIPS 202, 3.2.4. -/
def Keccak.chi (a : Keccak) : Keccak :=
  Keccak.ofLanes fun x y => a.lane x y ^^^ (~~~(a.lane (x + 1) y) &&& a.lane (x + 2) y)

def Keccak.round (a : Keccak) (rc : BitVec 64) : Keccak :=
  let b := a.theta.rhoPi.chi
  b.set 0 (b.lane 0 0 ^^^ rc)

def Keccak.permute (a : Keccak) : Keccak := iotaConstants.foldl Keccak.round a

/-- Bytes of a block of SHA3-512. -/
def sha3Rate : Nat := 72

/-- A block is absorbed. -/
def Keccak.absorb (a : Keccak) (block : List Byte) : Keccak :=
  (Keccak.ofLanes fun x y => a.lane x y ^^^ BitVec.ofNat 64 (leVal ((block.drop (8 * (x + 5 * y))).take 8))).permute

/-- FIPS 202, 5.1: the padding after n bytes, with the domain bits of SHA3. -/
def sha3Pad (n : Nat) : List Byte :=
  let gap := sha3Rate - n % sha3Rate
  if gap = 1 then [0x86] else [0x06] ++ List.replicate (gap - 2) 0 ++ [0x80]

def sha3Blocks : Nat → List Byte → Keccak → Keccak
  | 0, _, a => a
  | n + 1, bs, a => sha3Blocks n (bs.drop sha3Rate) (a.absorb (bs.take sha3Rate))

/-- SHA3-512, its first byte in the low bits. -/
def sha3 (bs : List Byte) : BitVec 512 :=
  let p := bs ++ sha3Pad bs.length
  let a := sha3Blocks (p.length / sha3Rate) p (Vector.replicate 25 0)
  BitVec.ofNat 512 (leVal ((a.toList.take 8).flatMap fun w => leBytes 8 w.toNat))

end Sys2Proof.Machine
end

