-- ==== Sys2Proof/Machine/Sync.lean ====
section
/-! DEFINITION. Machine/Sync.lean: the X class apart from system registers, task records, save areas and the
scan (R223 to R245): commits, fences, atomics, futures, casts, barriers, traps and timed outputs. -/

namespace Sys2Proof.Machine

/-! ### Commit points (R37, R224) -/

/-- R37: the X operation is done: no region is open, and the next bundle starts one. -/
def State.opDone (s : State) : State := s.modMe fun v => { v with cm := CommitState.idle, infl := none }

/-- R37, R224: a commit-point slot whose operand checks have passed. First the commit of its region begins and
the bundle is kept in flight; once the commit is done, run performs the operation, which may block again. -/
def State.commitPoint (s : State) (i : Instr) (run : State → State) : State :=
  match s.me.cm.phase with
  | .idle =>
    let u := s.cur
    let s := s.modMe fun v => { v with infl := some ⟨i, u.addr, u.next, u.br, u.overlay, false, none, none⟩, skips := 0 }
    (s.beginCommit u.core u.ctx).modCur fun u => { u with stop := .left }
  | .done =>
    let s := run s
    if s.cur.stop = .going then s.opDone else s
  | _ => s.modCur fun u => { u with stop := .left }

/-- R385: an operation exception with the branch word. -/
def State.trapOpWord (s : State) (e : Exc) : State := s.trapOp e s.branchWord

/-- The task leaves its context after the bundle: the pc moves on first (R27). -/
def State.leaveMoved (s : State) (k : State → State) : State :=
  (k ((s.opDone.advanceBy false).2.modMe Ctx.pastBundle)).modCur fun u => { u with stop := .left }

/-- R27, R230: the task parks in its context and resumes at the next bundle. -/
def State.parkMe (s : State) (why : ParkWhy) : State :=
  s.leaveMoved fun s => s.parkCtx s.cur.core s.cur.ctx why

/-! ### Commit and fences (R225 to R227) -/

def execCommit (s : State) : Out := .next (s.commitPoint .commit fun s => s)

/-- R409, R411: the remote writes of the context are acknowledged. -/
def State.remoteQuiet (s : State) (c : CoreId) (x : CtxId) : Bool :=
  !s.dev.unacked.any fun w => w.owner.1 == c && w.owner.2 == x

/-- R226, R409, R411: the FAB condition: the start of window N + 2, which does not count without time lock, and
every remote write of the context acknowledged or dropped. -/
def State.fabDone (s : State) (n : Nat) : Bool :=
  (!s.dev.tb.locked || decide (n ≤ s.window)) && s.remoteQuiet s.cur.core s.cur.ctx

/-- R226: the wait of FENCE.FAB and FENCE.SYS, from the window N in which the commit completed. -/
def State.fenceWait (s : State) (sys : Bool) : State :=
  let n := s.me.waitWindow.getD (s.me.commitWin + 2)
  if s.fabDone n && (!sys || s.me.hostUnacked == 0) then s.modMe fun v => { v with waitWindow := none }
  else (s.modMe fun v => { v with waitWindow := some n }).block

def execFence (sc : Scope) (s : State) : Out :=
  .next (s.commitPoint (.fence sc) fun s =>
    match sc with
    | .fab => s.fenceWait false
    | .sys => s.fenceWait true
    | _ => s)

/-- R226: the window that a fence waits for starts. -/
def execFenceWindowEnd (c : CoreId) (x : CtxId) (s : State) : Out :=
  .next (s.modCtx c x fun v =>
    match v.waitWindow with
    | some n => if n ≤ s.window then { v with waitWindow := some 0 } else v
    | none => v)

/-- R227: bundles fetched ahead are discarded. -/
def execIfence (s : State) : Out :=
  .next (s.commitPoint .ifence fun s => s.modMe fun v => { v with stale := [] })

/-! ### Atomics (R228, R229) -/

/-- R229: the value written to sD. -/
def atomicResult (op : Option AmoOp) (wide : Bool) (old : Nat) : Word :=
  if !wide && (op == some .min || op == some .max) then BitVec.ofInt 64 (signedOf 32 old) else BitVec.ofNat 64 old

/-- R282: scopes that reach other devices. -/
def scopeFar : Scope → Bool
  | .fab | .sys => true
  | _ => false

/-- R229, R278, R312: the atomic on a tracked line at physical address pa, once the core holds all 256 tokens for it. -/
def State.atomicTracked (s : State) (d : SReg) (op : Option AmoOp) (wide : Bool) (x y : Word) (pa : Nat)
    (keys : List (Nat × PageKind)) (addr : Nat) : State :=
  let c := s.cur.core
  let z := s.cur.ctx
  let n := atomicBytes wide
  let line := lineOf pa
  let mask := maskOf line ((List.range n).map (pa + ·))
  let s := s.markLines keys
  if s.coh.poison.contains line then s.trapOp .tileTable (BitVec.ofNat 64 addr)
  else if (s.lineAt line).coreTokens c ≠ Config.tokens then (s.requestAll c z line mask).block
  else if !s.lineReady c z line then s.block
  else
    let old := cellNat s.mem pa n
    let s := s.keepStale line
    let s := { s with mem := cellWrite s.mem pa (leBytes n (atomicNew op n old x.toNat y.toNat)) }
    let s := s.modMe fun v => { v with scalarLines := [line] }
    let s := (s.dropUntracked c line).settleLine c z line
    let s := (s.modMe fun v => { v with scalarLines := [] }).raceOthers c z line mask
    s.regWrite d (atomicResult op wide old) 8

/-- The X operation in flight has been asked for. -/
def State.asked (s : State) : Bool := (s.me.infl.map (·.arrived)).getD false

/-- The X operation in flight is asked for now: no answer has come. -/
def State.askNow (s : State) (msg : Option (BitVec 4 × Nat)) : State :=
  s.modMe fun v => { v with homeAns := none, infl := v.infl.map fun f => { f with arrived := true, msg := msg } }

/-- R229: the atomic on a strongly-ordered page, ungated at its place in the order of R43: at the line's home in device memory
(R259), at its target elsewhere. A poisoned line is a tile-table fault (R403). -/
def State.atomicOrdered (s : State) (d : SReg) (op : Option AmoOp) (wide : Bool) (x y : Word) (pa addr : Nat) : State :=
  let c := s.cur.core
  let z := s.cur.ctx
  let n := atomicBytes wide
  let done (s : State) (old : Nat) : State := s.regWrite d (atomicResult op wide old) (s.orderedBound c pa)
  if s.rangeOf pa ≠ .device then
    let old := leVal ((List.range n).map fun i => s.orderedByte (pa + i))
    done (s.orderedStore c z ⟨s.me.seq, pa, n, BitVec.ofNat 64 (atomicNew op n old x.toNat y.toNat)⟩) old
  else if !s.asked && s.homeBusy c z then s.block
  else if !s.asked && s.coh.poison.contains (lineOf pa) then s.trapOp .tileTable (BitVec.ofNat 64 addr)
  else
    let s := if s.asked then s
      else ((s.askNow none).debit c z 0 64 40).homePost ⟨rqOf c z, lineOf pa, .atomic (pa % 64) wide op x y, none⟩
    match s.me.homeAns with
    | some old => done (s.modMe fun v => { v with homeAns := none }) old.toNat
    | none => if s.homeBusy c z then s.block else s.trapOp .tileTable (BitVec.ofNat 64 addr)

/-- R283, R289, R408: the atomic on another device is performed there; its old value, a free value, comes with the acknowledgement,
until which the sender keeps it (log 14). A refusal there, or the loss of the device before the answer, is a tile-table fault
(R396, R409). -/
def State.atomicRemote (s : State) (d : SReg) (op : Option AmoOp) (wide : Bool) (dst : BitVec 4)
    (keys : List (Nat × PageKind)) (addr : Nat) : State :=
  if s.asked then
    match s.me.homeAns with
    | some w =>
      (s.modMe fun v => { v with homeAns := none }).regWrite d (atomicResult op wide (w.toNat % 2 ^ (8 * atomicBytes wide))) 8
    | none =>
      if s.dev.unacked.any fun w => (s.me.infl.bind (·.msg)) == some (w.dst, w.seq) then s.block
      else s.trapOp .tileTable (BitVec.ofNat 64 addr)
  else
    match s.remoteRefused keys with
    | (some a, s) => s.trapOp .tileTable (BitVec.ofNat 64 a)
    | (none, s) => ((s.askNow (some (dst, s.nextSeq dst))).post s.cur.core s.cur.ctx dst []).block

/-- R229: the atomic at translated keys; addr is its tensor address. -/
def State.atomicAt (s : State) (d : SReg) (op : Option AmoOp) (wide : Bool) (sc : Scope) (x y : Word) (addr : Nat)
    (k : Nat × PageKind) : State :=
  let keys := (List.range (atomicBytes wide)).map fun i => (k.1 + i, k.2)
  match k.2 with
  | .remote => if scopeFar sc then s.atomicRemote d op wide (remoteDev k.1) keys addr else s.trapOpWord .illegalOperand
  | .ordered =>
    if s.rangeOf k.1 = .host ∧ sc ≠ .sys then s.trapOpWord .illegalOperand else s.atomicOrdered d op wide x y k.1 addr
  | _ => s.atomicTracked d op wide x y k.1 keys addr

/-- R229, R262, R263: the operation of AMO and CAS, which translates its address once. -/
def State.atomicRun (s : State) (d : SReg) (op : Option AmoOp) (wide : Bool) (sc : Scope) (base x y : Word) : State :=
  let addrs := (List.range (atomicBytes wide)).map fun i => tensorByte base.toNat 0 i
  let addr := addrs.headD 0
  match s.me.infl.bind (·.key) with
  | some k => s.atomicAt d op wide sc x y addr k
  | none =>
    match s.keysOf true addrs with
    | .error a => s.trapOp .tileTable (BitVec.ofNat 64 a)
    | .ok keys =>
      let k := keys.headD (0, .uncached)
      ((s.lookupAll s.cur.core addrs).2.modMe fun v => { v with infl := v.infl.map fun f => { f with key := some k } }).atomicAt
        d op wide sc x y addr k

def execAmo (op : AmoOp) (wide : Bool) (sc : Scope) (d a b : SReg) (ma mb : Bool) (s : State) : Out :=
  .next (s.readSS a b ma mb fun base x =>
    s.check (decide (base.toNat % atomicBytes wide = 0)) .illegalOperand
      (s.commitPoint (.amo op wide sc d a b ma mb) fun s => s.atomicRun d (some op) wide sc base x 0))

def execCas (wide : Bool) (sc : Scope) (d a b : SReg) (ma mb : Bool) (c : SReg) (s : State) : Out :=
  .next (s.readSS a b ma mb fun base x => s.readS c false fun y =>
    s.check (decide (base.toNat % atomicBytes wide = 0)) .illegalOperand
      (s.commitPoint (.cas wide sc d a b ma mb c) fun s => s.atomicRun d none wide sc base x y))

/-! ### Tasks (R230, R232) -/

def execYield (s : State) : Out :=
  .next (s.check (!s.me.r.active) .illegalOperand (s.commitPoint .yield fun s => s.parkMe .yield))

/-- R29: tile fills of the task are outstanding. -/
def State.fillsOut (s : State) : Bool := s.myCore.tileQ.any fun m => m.x == s.cur.ctx

/-- R29: any result or engine command of the task is outstanding. -/
def State.resultsOut (s : State) : Bool :=
  !s.me.pend.isEmpty || s.fillsOut || s.myCore.matQ.any fun m => m.x == s.cur.ctx

/-- The 32-bit handle in a register. -/
def handleOf (x : Word) : BitVec 32 := x.extractLsb' 0 32

/-- R30, R233: a future instruction: the operand check of INDEX 0, then the operation's checks, then k on the
live entry. -/
def State.futOp (s : State) (i : Instr) (x : Word) (k : State → Nat → FutEnt → State) : State :=
  let h := handleOf x
  s.check (futIndex h != 0) .illegalOperand
    (s.commitPoint i fun s =>
      match s.futLook h with
      | .range => s.trapOpWord .illegalOperand
      | .stale => s.trapOpWord .staleHandle
      | .ok e => k s (futIndex h) e)

/-- R230: AWAIT. -/
def execAwait (a : SReg) (ma : Bool) (s : State) : Out :=
  .next (s.readS a ma fun x =>
    s.check (!s.me.r.active) .illegalOperand
      (s.futOp (.await a ma) x fun s i e =>
        if s.fillsOut then s.block
        else
          match e.st, s.me.task with
          | .pending, some id =>
            (s.setFut i { e with waiters := e.waiters ++ [.parked id] }).parkMe (.await (handleOf x))
          | _, _ => s))

/-- R29, R232: TEXIT. -/
def execTexit (a : SReg) (ma : Bool) (s : State) : Out :=
  .next (s.readS a ma fun x =>
    s.commitPoint (.texit a ma) fun s =>
      if s.resultsOut then s.block
      else s.leaveMoved fun s => (s.modRegs fun r => { r with active := false }).exitCtx s.cur.core s.cur.ctx x)

/-! ### Futures (R233) -/

/-- R235: cycles of a future or cast operation. -/
def tableCost : Nat := 160

def execFnew (d : SReg) (s : State) : Out :=
  .next (s.commitPoint (.fnew d) fun s => (s.futAlloc.2).regWrite d ((s.futAlloc.1).setWidth 64) tableCost)

def execFset (a b : SReg) (ma mb : Bool) (s : State) : Out :=
  .next (s.readSS a b ma mb fun x y =>
    s.futOp (.fset a b ma mb) x fun s i e =>
      if e.st = .pending then s.futSet i e y else s.trapOpWord .futureState)

/-- FGET.V: the value of a READY future, else 0. -/
def execFgetV (d a : SReg) (ma : Bool) (s : State) : Out :=
  .next (s.readS a ma fun x =>
    s.futOp (.fgetV d a ma) x fun s _ e => s.regWrite d (if e.st = .ready then e.val else 0) tableCost)

/-- FGET.S: 1 PENDING, 2 READY, 3 FAILED. -/
def execFgetS (d a : SReg) (ma : Bool) (s : State) : Out :=
  .next (s.readS a ma fun x =>
    s.futOp (.fgetS d a ma) x fun s _ e =>
      s.regWrite d (match e.st with
        | .empty => 0
        | .pending => 1
        | .ready => 2
        | .failed => 3) tableCost)

def execFfail (a : SReg) (ma : Bool) (s : State) : Out :=
  .next (s.readS a ma fun x =>
    s.futOp (.ffail a ma) x fun s i e => if e.st = .pending then s.futFail i e else s.trapOpWord .futureState)

def execFfree (a : SReg) (ma : Bool) (s : State) : Out :=
  .next (s.readS a ma fun x => s.futOp (.ffree a ma) x fun s i e => s.futFree i e)

/-! ### Casts (R234) -/

/-- R33, R234: a cast instruction: the operand check of the handle, then the stale-handle check, then k on the
live cast. -/
def State.castOp (s : State) (i : Instr) (x : Word) (k : State → Nat → CastEnt → State) : State :=
  let h := handleOf x
  s.check (!castBad h) .illegalOperand
    (s.commitPoint i fun s =>
      match s.castLook h with
      | none => s.trapOpWord .staleHandle
      | some e => k s (castIndex h) e)

/-- The issuing task, when the context holds one. -/
def State.myTask (s : State) : Nat := s.me.task.getD 0

/-- An operation of a cast that is for members only. -/
def State.memberOp (s : State) (e : CastEnt) (k : State) : State :=
  if e.members.contains s.myTask then k else s.trapOpWord .illegalOperand

def execCnew (d : SReg) (s : State) : Out :=
  .next (s.commitPoint (.cnew d) fun s =>
    ((s.castAlloc s.myTask).2).regWrite d (((s.castAlloc s.myTask).1).setWidth 64) tableCost)

def execCjoin (a : SReg) (ma : Bool) (s : State) : Out :=
  .next (s.readS a ma fun x =>
    s.castOp (.cjoin a ma) x fun s i e =>
      if e.members.contains s.myTask then s
      else if 512 ≤ e.members.length then s.trapOpWord .illegalOperand
      else s.setCast i (e.join s.myTask))

def execCleave (a : SReg) (ma : Bool) (s : State) : Out :=
  .next (s.readS a ma fun x =>
    s.castOp (.cleave a ma) x fun s i e => s.memberOp e (s.setCast i (e.leave s.myTask)))

/-- R234: the stale-handle exception of a context that waits on a dissolved cast. -/
def State.staleWaiter (s : State) (c : CoreId) (x : CtxId) : State :=
  match (s.ctxAt c x).infl with
  | some f =>
    s.trapEntry c x ⟨.staleHandle, 1, 7, 7, f.addr
      , match f.br with
        | some t => BitVec.ofNat 64 (t.toNat + 65536)
        | none => 0, 0, f.overlay⟩
  | none => s

/-- R33, R234: CFREE. -/
def State.castFree (s : State) (h : BitVec 32) (i : Nat) (e : CastEnt) : State :=
  let s := s.setCast i { e with alloc := false, gen := e.gen + 1, members := [], awaited := [], arrived := []
                                pending := 0, ovr := false, phase := 0 }
  let s := { s with casts := { s.casts with freed := s.casts.freed ++ [i] } }
  allContexts.foldl (fun s p =>
    if (s.ctxAt p.1 p.2).waitCast = some h then s.staleWaiter p.1 p.2 else s) s

def execCfree (a : SReg) (ma : Bool) (s : State) : Out :=
  .next (s.readS a ma fun x =>
    s.castOp (.cfree a ma) x fun s i e =>
      if e.members.any fun t => t != s.myTask then s.trapOpWord .illegalOperand else s.castFree (handleOf x) i e)

/-- R34: the arrival of a member can count in the open phase. -/
def CastEnt.canArrive (e : CastEnt) (t : Nat) : Bool := e.awaited.contains t && !e.arrived.contains t

/-- The context waits on the cast. -/
def State.waitOn (s : State) (h : BitVec 32) : State :=
  (s.modMe fun v => { v with waitCast := some h, infl := v.infl.map fun f => { f with arrived := true } }).block

/-- R34: the arrival in the open phase. -/
def State.arrive (s : State) (d : SReg) (i : Nat) (e : CastEnt) : State :=
  (s.setCast i { e with arrived := e.arrived ++ [s.myTask] }.settle).regWrite d (e.phase.setWidth 64) tableCost

/-- R34, R234: BARRIVE; a repeated or early arrival is an event of its own, after which it waits. -/
def execBarrive (d a : SReg) (ma : Bool) (s : State) : Out :=
  .next (s.readS a ma fun x =>
    s.castOp (.barrive d a ma) x fun s i e =>
      s.memberOp e
        (if e.canArrive s.myTask then s.arrive d i e
        else if (s.me.infl.map (·.arrived)).getD false then s.waitOn (handleOf x)
        else
          let e' := e.settle
          let s := s.setCast i e'
          if e'.canArrive s.myTask then s.arrive d i e' else s.waitOn (handleOf x)))

/-- R234: the pending-byte counter after BEXPECT, saturating with the overrun bit. -/
def CastEnt.expect (e : CastEnt) (n : Nat) : CastEnt :=
  if 2 ^ 32 ≤ e.pending + n then { e with pending := 2 ^ 32 - 1, ovr := true } else { e with pending := e.pending + n }

def execBexpect (a b : SReg) (ma mb : Bool) (s : State) : Out :=
  .next (s.readSS a b ma mb fun x y =>
    s.castOp (.bexpect a b ma mb) x fun s i e =>
      s.memberOp e
        (if bits y.toNat 63 32 ≠ 0 then s.trapOpWord .illegalOperand
        else
          let e' := e.expect y.toNat
          (s.setCast i e').spreadOverrun (decide (2 ^ 32 ≤ e.pending + y.toNat)) e'))

/-- R36: the test of BWAIT and BTEST. -/
def phasePast (phase t : BitVec 32) : Bool := decide (1 ≤ (phase - t).toNat) && decide ((phase - t).toNat < 2 ^ 31)

def execBwait (a b : SReg) (ma mb : Bool) (s : State) : Out :=
  .next (s.readSS a b ma mb fun x y =>
    s.castOp (.bwait a b ma mb) x fun s _ e =>
      if phasePast e.phase (handleOf y) then s else s.waitOn (handleOf x))

def execBtest (d a b : SReg) (ma mb : Bool) (s : State) : Out :=
  .next (s.readSS a b ma mb fun x y =>
    s.castOp (.btest d a b ma mb) x fun s _ e =>
      s.regWrite d (if phasePast e.phase (handleOf y) then 1 else 0) tableCost)

/-- R234: the wait of a context on a cast is over. -/
def State.waiterDone (s : State) (c : CoreId) (x : CtxId) : Bool :=
  let v := s.ctxAt c x
  match v.waitCast with
  | none => false
  | some h =>
    match s.castLook h with
    | none => true
    | some e =>
      match v.infl with
      | none => true
      | some f =>
        match f.instr with
        | .bwait _ b _ _ => phasePast e.phase (handleOf (v.r.getS b))
        | .barrive _ _ _ => e.canArrive (v.task.getD 0)
        | _ => true

/-- R234: a waiter proceeds. -/
def execBarrierWaiterRelease (c : CoreId) (x : CtxId) (s : State) : Out :=
  .next (if s.waiterDone c x then s.modCtx c x fun v => { v with waitCast := none } else s)

/-! ### Traps, returns and halt (R237, R239 to R241) -/

/-- R385: TRAP and a taken BRK: every other slot has taken effect, and the frame names the bundle that issues
next. -/
def State.trapNext (s : State) (e : Exc) (n : BitVec 12) : State :=
  let s := s.advanceQuiet
  (s.trapEntry s.cur.core s.cur.ctx ⟨e, 0, 7, 0, s.me.r.pc, 0, n, []⟩).endTrapped

def execTrap (n : BitVec 12) (s : State) : Out := .next (s.trapNext .systemCall n)

def execBrk (n : BitVec 12) (s : State) : Out :=
  .next (if s.me.r.dbgen then s.trapNext .breakpoint n
    else s.modMyCore fun k => { k with brkskip := k.brkskip + 1 })

/-- R239, R241: supervisor code only. -/
def State.supervisor (s : State) (k : State) : State := s.check s.me.r.mode .privilege k

def execEret (s : State) : Out := .next (s.supervisor s.eretMe)

/-- R237: UIRET. -/
def execUiret (s : State) : Out :=
  .next (s.check s.me.r.inui .illegalOperand
    (((s.modMe fun v => { v with r := { v.r with inui := false } }.touchAllP).modCur fun u =>
      { u with br := some (s.me.uiepc.extractLsb' 0 16) }).stall 1))

/-- R241: an isolated instruction: supervisor only, alone in a bundle with RS set. -/
def State.isolatedOp (s : State) (k : State) : State := s.supervisor (s.check s.cur.isolated .illegalOperand k)

/-- R236, R241: HALT; a user-level interrupt that is pending is delivered after it, before the context stops. -/
def execHalt (s : State) : Out :=
  .next (s.isolatedOp (s.commitPoint .halt fun s =>
    s.leaveMoved fun s => ((s.modRegs Regs.refill).deliverUi s.cur.core s.cur.ctx).modMe fun v => if v.occ = .running then v.halt else v))

/-! ### Time and timed outputs (R242, R243) -/

def execWaitt (a : SReg) (ma : Bool) (s : State) : Out :=
  .next (s.readS a ma fun x => if s.timeNs < x.toNat then s.block else s)

/-- R243: TOUT; a ninth entry of a region is an overflow. -/
def execTout (a b : SReg) (ma mb : Bool) (s : State) : Out :=
  .next (s.readSS a b ma mb fun x y =>
    s.check (decide (bits y.toNat 63 32 = 0)) .illegalOperand
      (if 8 ≤ s.me.touts.length then (s.overflow s.cur.core s.cur.ctx).modCur fun u => { u with stop := .left }
      else s.modMe fun v =>
        { v with touts := v.touts ++ [(⟨x, y.extractLsb' 16 16, y.extractLsb' 0 16⟩ : TOutEntry)] }))

/-! ### IMSUM (R245) -/

/-- R245: one byte of CRC-32C, reflected polynomial 0x82F63B78. -/
def crcByte (c : BitVec 32) (b : Byte) : BitVec 32 :=
  (List.range 8).foldl (fun c _ => if c.getLsbD 0 then (c >>> 1) ^^^ 0x82F63B78 else c >>> 1)
    (c ^^^ b.setWidth 32)

def crc32c (bs : List Byte) : BitVec 32 := ~~~(bs.foldl crcByte 0xFFFFFFFF)

/-- R245: the operand rules of IMSUM. -/
def imsumOk (x y : Word) : Bool :=
  let n := bits y.toNat 15 0
  decide (1 ≤ n) && decide (n ≤ 32768) && decide (bits x.toNat 63 16 = 0) && decide (bits y.toNat 63 16 = 0)
    && decide (x.toNat / 32768 = (x.toNat + n - 1) / 32768)

/-- R89, R245: an IMLD of the context, issued before this bundle, has still to write the scratchpad. -/
def State.imldOut (s : State) : Bool :=
  s.myCore.tileQ.any fun m => m.x == s.cur.ctx && decide (m.seq < s.cur.seq0) &&
    (match m.op with
     | .imld _ _ _ => true
     | _ => false)

def execImsum (d a b : SReg) (ma mb : Bool) (s : State) : Out :=
  .next (s.readSS a b ma mb fun x y =>
    s.check (imsumOk x y) .illegalOperand
      (if s.imldOut then s.block
      else
        let n := bits y.toNat 15 0
        s.regWrite d ((crc32c (cellBytes s.myCore.scratch x.toNat n)).setWidth 64) (8 + ceilDiv n 64)))

end Sys2Proof.Machine
end

