-- ==== Sys2Proof/Machine/Sysreg.lean ====
section
/-! DEFINITION. Machine/Sysreg.lean: SYSR and SYSW over the whole system register map (R71 to R77, R119, R121,
R238, R371, R382, R417). -/

namespace Sys2Proof.Machine

/-! ### The map (R71) -/

/-- R71: whether a number stands in the map, and with it whether it is a supervisor register. -/
def sysLevel (n : Nat) : Option Bool :=
  if n ≤ 0x004 ∨ (0x010 ≤ n ∧ n ≤ 0x016) ∨ n = 0x018 ∨ n = 0x019 then some false
  else if n = 0x01A ∨ (0x020 ≤ n ∧ n ≤ 0x027) ∨ (0x030 ≤ n ∧ n ≤ 0x03F) ∨ (0x100 ≤ n ∧ n ≤ 0x102)
      ∨ (0x104 ≤ n ∧ n ≤ 0x109) ∨ (0x140 ≤ n ∧ n ≤ 0x1FF) ∨ (0x200 ≤ n ∧ n ≤ 0x204) then some true
  else none

/-- R71: an unknown number is an illegal operand, a supervisor register in user mode a privilege exception. -/
def State.sysAccess (s : State) (n : Nat) (k : State) : State :=
  match sysLevel n with
  | none => s.trapSlot .illegalOperand
  | some sup => s.check (!sup || s.me.r.mode) .privilege k

/-- R72: the identity of a context. -/
def State.ctxId (s : State) (c : CoreId) (x : CtxId) : Word :=
  BitVec.ofNat 64 (x.toNat + 4 * (s.logicalOf c).getD 0 + 256 * boolNat (dieOf c) + 65536 * s.dev.devNo.toNat)

/-- R71: the value of a register of the map, for the issuing context. -/
def State.sysRead (s : State) (n : Nat) : Word :=
  let v := s.me
  let k := s.myCore
  if n = 0x000 then s.cap0
  else if n = 0x001 then cap1
  else if n = 0x002 then s.cap2
  else if n = 0x003 then cap3
  else if n = 0x004 then s.dev.funcReady
  else if n = 0x010 then s.ctxId s.cur.core s.cur.ctx
  else if n = 0x011 then statusOf k v
  else if n = 0x012 then v.r.fflags
  else if n = 0x013 then v.r.ferec
  else if n = 0x014 then v.uivec
  else if n = 0x015 then v.uiepc
  else if n = 0x016 then v.uicause
  else if n = 0x018 then BitVec.ofNat 64 k.cycle
  else if n = 0x019 then BitVec.ofNat 64 s.timeNs
  else if n = 0x01A then k.brkskip
  else if 0x020 ≤ n ∧ n ≤ 0x023 then k.dfPart[n - 0x020]!
  else if 0x024 ≤ n ∧ n ≤ 0x027 then k.saveBase[n - 0x024]!
  else if n = 0x030 then v.tr.tvec
  else if n = 0x031 then tcauseOf v
  else if n = 0x032 then v.tr.tepc
  else if n = 0x033 then v.tr.tstatus
  else if n = 0x034 then v.tr.tval
  else if n = 0x035 then v.tr.tovid
  else if 0x036 ≤ n ∧ n ≤ 0x03D then v.tr.tov[n - 0x036]!
  else if n = 0x03E ∨ n = 0x03F then v.tr.tscr[n - 0x03E]!
  else if 0x100 ≤ n ∧ n ≤ 0x1FF then (s.elogRead (n - 0x100)).getD 0
  else if n = 0x200 then k.scanCtl
  else if n = 0x201 then k.scanSigx
  else if n = 0x202 then k.scanSigm
  else if n = 0x203 then k.scanStat
  else if n = 0x204 then k.scanStart
  else 0

/-! ### SYSR (R238) -/

/-- R120: a matrix command whose instruction can raise a flag. -/
def MatOp.canFlag : MatOp → Bool
  | .bf | .t6 | .t8 | .t12 | .ad | .cvt _ => true
  | _ => false

/-- R120: an operation of the context that can raise a flag is outstanding. -/
def State.flagsOut (s : State) : Bool :=
  (s.me.pend.any fun p => p.fp && decide (p.seq < s.cur.seq0))
    || s.myCore.matQ.any fun m => m.x == s.cur.ctx && m.op.canFlag && decide (m.seq < s.cur.seq0)

def execSysr (d : SReg) (n : BitVec 12) (s : State) : Out :=
  .next (s.sysAccess n.toNat
    (if (n = 0x012 ∨ n = 0x013) ∧ s.flagsOut then s.block else s.regWrite d (s.sysRead n.toNat) 1))

/-! ### SYSW (R5, R238) -/

/-- R73: the effect of a write of STATUS: UIEN, DBGEN in supervisor mode, the W1C bits. -/
def Ctx.statusWrite (v : Ctx) (w : Word) : Ctx :=
  { v with r := { v.r with uien := w.getLsbD 2, dbgen := if v.r.mode then w.getLsbD 1 else v.r.dbgen }
           statusHi := v.statusHi &&& ~~~(w &&& 0x300) }

/-- R74: writing 1 to PFDONE clears it and PFCOUNT. -/
def uicauseWrite (old w : Word) : Word := if w.getLsbD 0 then 0 else old

/-- R120, R123: what ends while slots to the left stall the bundle has raised its flags before a slot to their right takes effect. -/
def State.catchUp (s : State) : State :=
  if s.cur.late = 0 then s
  else
    let c := s.cur.core
    let cyc := s.myCore.cycle
    let s := s.modMyCore fun k => { k with cycle := s.now }
    let s := s.matTurn c (4 * s.myCore.matQ.length)
    (s.landDue c s.cur.ctx s.me.pend.length).modMyCore fun k => { k with cycle := cyc }

/-- R238: a write below 0x020, at once. -/
def State.sysWriteNow (s : State) (n : Nat) (w : Word) : State :=
  let s := if n = 0x012 ∨ n = 0x013 then s.catchUp else s
  if n = 0x011 then s.modMe fun v => v.statusWrite w
  else if n = 0x012 then s.modRegs fun r => { r with fflags := fflagsWrite r.fflags w }
  else if n = 0x013 then s.modRegs fun r => { r with ferec := ferecWrite r.ferec w }
  else if n = 0x014 then s.modMe fun v => { v with uivec := w }
  else if n = 0x015 then s.modMe fun v => { v with uiepc := w }
  else if n = 0x016 then s.modMe fun v => { v with uicause := uicauseWrite v.uicause w }
  else if n = 0x01A then s.modMyCore fun k => { k with brkskip := w }
  else s

/-- R75: units [a, a + n) and [b, b + m) overlap. -/
def unitsMeet (a n b m : Nat) : Bool := decide (a < b + m) && decide (b < a + n)

/-- R75: a new partition for context x is accepted. -/
def Core.partOk (k : Core) (x : CtxId) (w : Word) : Bool :=
  let base := bits w.toNat 3 0
  let size := bits w.toNat 11 8
  (k.ctxAt x).occ == .free && decide (1 ≤ size) && decide (size ≤ 13) && decide (base + size ≤ 16)
    && allCtxs.all fun y => y == x || !unitsMeet base size (k.partBase y / 32) (k.partUnits y)

/-- R382: the fields of TCAUSE that software writes. -/
def tcauseMask : Word := 0x30700

/-- R382: a write of a trap register. -/
def Ctx.trapWrite (v : Ctx) (n : Nat) (w : Word) : Ctx :=
  if n = 0x030 then { v with tr := { v.tr with tvec := w &&& 0x800000000000FFFF } }
  else if n = 0x031 then
    { v with tr := { v.tr with tcause := (v.tr.tcause &&& ~~~tcauseMask) ||| (w &&& tcauseMask) }
             r := { v.r with active := w.getLsbD 63 } }
  else if n = 0x032 then { v with tr := { v.tr with tepc := w &&& 0xFFFF } }
  else if n = 0x033 then { v with tr := { v.tr with tstatus := w &&& 0x31F } }
  else if n = 0x03E then { v with tr := { v.tr with tscr := v.tr.tscr.set 0 w } }
  else if n = 0x03F then { v with tr := { v.tr with tscr := v.tr.tscr.set 1 w } }
  else v

/-- R238: a write at 0x020 or above, performed once after the commit. -/
def State.sysWriteCommitted (s : State) (n : Nat) (w : Word) : State :=
  if 0x020 ≤ n ∧ n ≤ 0x023 then
    let x : CtxId := BitVec.ofNat 2 (n - 0x020)
    if s.myCore.partOk x w then s.modMyCore fun k => { k with dfPart := k.dfPart.set x.toNat (w &&& 0xF0F) x.isLt }
    else s.trapOpWord .illegalOperand
  else if 0x024 ≤ n ∧ n ≤ 0x027 then
    let x : CtxId := BitVec.ofNat 2 (n - 0x024)
    s.modMyCore fun k => { k with saveBase := k.saveBase.set x.toNat (w &&& 0xFFFFFFFFFFFFFFC0) x.isLt }
  else if 0x030 ≤ n ∧ n ≤ 0x03F then s.modMe fun v => v.trapWrite n w
  else if 0x100 ≤ n ∧ n ≤ 0x1FF then s.elogWrite (n - 0x100) 0xFF w
  else if n = 0x200 then s.modMyCore fun k => { k with scanCtl := w &&& 0x13F0F }
  else if n = 0x201 then s.modMyCore fun k => { k with scanSigx := w }
  else s

/-- SYSW: a commit point at 0x020 and above (R77, R238). -/
def execSysw (d : SReg) (n : BitVec 12) (s : State) : Out :=
  .next (s.readS d false fun w =>
    s.sysAccess n.toNat
      (if n.toNat < 0x020 then s.sysWriteNow n.toNat w
      else s.commitPoint (.sysw d n) fun s => s.sysWriteCommitted n.toNat w))

end Sys2Proof.Machine
end

