-- ==== Sys2Proof/Machine/Save.lean ====
section
/-! DEFINITION. Machine/Save.lean: the save area (R247 to R249): its layout, its checks, CTXSAVE and CTXLOAD, and
the saves and restores that the core makes itself (R49, R325). -/

namespace Sys2Proof.Machine

/-! ### The lines of an area (R248, R249) -/

/-- R248: bytes of an area of SIZE units. -/
def areaSize (size : Nat) : Nat := 0x2000 + size * 69632

/-- R249: the first refused byte of a line of an area, if there is one. -/
def State.refusedByte (s : State) (base line : Nat) (store : Bool) : Option Nat :=
  ((List.range 64).map fun i => tensorByte base (64 * line : Nat) i).find? fun a =>
    match s.byteKey a store with
    | some k => !k.2.isTracked
    | none => true

/-- R249: the physical address of a line of an area, or its first refused byte. -/
def State.areaLine (s : State) (base line : Nat) (store : Bool) : Except Nat Nat :=
  (s.refusedByte base line store).elim
    ((s.byteKey (tensorByte base (64 * line : Nat) 0) store).elim (.error base) fun k => .ok k.1) .error

def consLine (k : Except Nat Nat) (r : Except Nat (List Nat)) : Except Nat (List Nat) :=
  match k, r with
  | .error a, _ => .error a
  | .ok _, .error a => .error a
  | .ok k, .ok ks => .ok (k :: ks)

/-- R249: the physical address of every line of an area, or the first refused byte. -/
def State.areaLines (s : State) (base : Nat) (store : Bool) : List Nat → Except Nat (List Nat)
  | [] => .ok []
  | i :: rest => consLine (s.areaLine base i store) (s.areaLines base store rest)

def State.areaOf (s : State) (base size : Nat) (store : Bool) : Except Nat (List Nat) :=
  s.areaLines base store (List.range (areaSize size / 64))

/-! ### Saving (R248) -/

/-- R248: one level of the loop stack; of a kernel count of 2^32 or more the field holds the low 32 bits (DESIGN CHOICE, log 58). -/
def loopBytes (l : Option LoopLevel) : List Byte :=
  match l with
  | none => List.replicate 16 0
  | some l =>
    leBytes 8 (l.start.toNat + 2 ^ 16 * l.stop.toNat + 2 ^ 32 * l.remaining)
      ++ leBytes 8 (l.kernel % 2 ^ 32 + 2 ^ 32 * l.stages.toNat + 2 ^ 35 * boolNat l.drain + 2 ^ 36)

/-- R248: SAT, UND and CAN budgets in the layout of MBUD. -/
def budgetWord (a b c : BitVec 13) : Nat := a.toNat + 2 ^ 13 * b.toNat + 2 ^ 26 * c.toNat

/-- R248: the registers of the area, each with its offset. -/
def areaRegs (k : Core) (x : CtxId) : List (Nat × List Byte) :=
  let v := k.ctxAt x
  let r := v.r
  let w (off : Nat) (n : Nat) : Nat × List Byte := (off, leBytes 8 n)
  [ w 0x00 (1 + 256 * k.partUnits x), w 0x08 r.pc.toNat, w 0x10 (statusOf k v).toNat, w 0x18 r.fflags.toNat
  , w 0x20 r.ferec.toNat, w 0x28 v.uivec.toNat, w 0x30 v.uiepc.toNat, w 0x38 v.uicause.toNat
  , w 0x40 (v.vshape.toNat + 2 ^ 32 * v.vwin.toNat), w 0x48 (r.p ||| 1).toNat, w 0x50 v.tr.tvec.toNat ]
  ++ [ (0x60, r.ix.toList.flatMap fun i => leBytes 8 i.toNat)
  , (0x80, (List.range 4).flatMap fun j => loopBytes r.loops.reverse[j]?)
  , w 0xC0 (v.mx.mlim.toNat + 256 * v.mx.cexp.toNat + 65536 * boolNat v.mx.cont)
  , w 0xC8 (budgetWord v.mx.sat6 v.mx.und6 v.mx.can6), w 0xD0 (budgetWord v.mx.sat8 v.mx.und8 v.mx.can8)
  , w 0xD8 r.stats.rung6.toNat, w 0xE0 r.stats.rung8.toNat
  , w 0xE8 (r.stats.replays.toNat + 2 ^ 32 * r.stats.widened.toNat), w 0xF0 r.stats.adops.toNat ]
  ++ [ (0x100, leBytes 8 0 ++ r.s.toList.tail.flatMap fun z => leBytes 8 z.toNat)
  , (0x300, r.sh.toList.flatMap fun z => leBytes 8 z.toNat)
  , (0x340, ([tcauseOf v, v.tr.tepc, v.tr.tstatus, v.tr.tval, v.tr.tovid] ++ v.tr.tov.toList ++ v.tr.tscr.toList).flatMap
      fun z => leBytes 8 z.toNat)
  , (0x400, ([0, 1, 2, 3, 4, 5, 6, 7] : List KReg).flatMap fun j => leBytes 256 (r.getK j).toNat)
  , (0xC00, v.td.toList.flatMap fun d => leBytes 64 d.toNat) ]

/-- The cells of a map from address a on, n bytes, moved to offset off. -/
def cellMove (m : List Host.Cell) (a n off : Nat) : List Host.Cell :=
  ((cellDrop m a).filter fun c => decide (c.1 < a + n)).map fun c => (c.1 - a + off, c.2)

/-- R248: the nonzero bytes of the area of context x. -/
def areaCells (k : Core) (x : CtxId) : List Host.Cell :=
  let n := k.partSlabs x
  ((areaRegs k x).flatMap fun r => slabCells r.1 r.2)
    ++ cellMove (k.ctxAt x).spill 0 4096 0x1000
    ++ cellMove k.df (k.slabAddr x 0) (n * 2048) 0x2000
    ++ cellMove k.side (k.sideAddr x 0) (n * 128) (0x2000 + n * 2048)

/-- R40, R276: regions that are not confirmed and recorded bytes of a line of the area take the memory-model exception. -/
def State.raceLines (s : State) (lines : List Nat) : State :=
  allContexts.foldl (fun s p =>
    if (s.ctxAt p.1 p.2).cm.phase != .merge && (s.ctxAt p.1 p.2).recs.any fun r => r.2 != 0 && lines.contains r.1 then
      s.raceRollback p.1 p.2
    else s) s

/-- R247, R249, R403: the area is written, every line whole, and its poison is cleared. -/
def State.writeArea (s : State) (pas : List Nat) (cells : List Host.Cell) : State :=
  let lines := pas.map lineOf
  let s := s.raceLines lines
  let a := pas.toArray
  let m := cellClear s.mem fun p => lines.contains (lineOf p)
  let s := { s with mem := cellPuts m (cells.map fun (c : Host.Cell) => (a.getD (c.1 / 64) 0 + c.1 % 64, c.2)) }
  s.modCoh fun h => { h with
    poison := h.poison.filter fun l => !lines.contains l
    lines := h.lines.map fun p => if lines.contains p.1 then (p.1, { p.2 with stale := none }) else p }

/-- R44: a result or an engine command of the context is outstanding. -/
def Core.fillsOf (k : Core) (x : CtxId) : Bool :=
  !(k.ctxAt x).pend.isEmpty || (k.tileQ.any fun m => m.x == x) || k.matQ.any fun m => m.x == x

/-- The context is saved to its area, which reads its partition (R368), and becomes FREE; its task keeps where it is saved (R247, R319). -/
def State.saveTo (s : State) (c : CoreId) (x : CtxId) (base : Word) (pas : List Nat) : State :=
  let k := s.coreAt c
  let v := k.ctxAt x
  let s := (s.parityRead c x [(0, 2048 * k.partSlabs x)]).writeArea pas (areaCells k x)
  let s := match v.task with
    | some id => s.modTask id fun t => { t with loc := none, saved := some (base, k.partUnits x), infl := v.infl }
    | none => s
  s.modCtx c x Ctx.freed

/-! ### Loading (R247, R248) -/

/-- The bytes of an area, by offset. -/
def State.areaImage (s : State) (pas : List Nat) : List Host.Cell :=
  (pas.zip (List.range pas.length)).flatMap fun p =>
    (slabCells (64 * p.2) (cellBytes s.mem p.1 64)).filter fun c => c.2 ≠ 0

/-- The 8-byte register at an offset of an area. -/
def imgWord (img : List Host.Cell) (off : Nat) : Word := BitVec.ofNat 64 (cellNat img off 8)

/-- R248: the level of the loop stack at an offset, when it is in use. A level with S = 1 can stem from LOOP or
LOOPP, which free tells (log 20). -/
def imgLoop (img : List Host.Cell) (free : Bool) (j : Nat) : Option LoopLevel :=
  let a := (imgWord img (0x80 + 16 * j)).toNat
  let b := (imgWord img (0x88 + 16 * j)).toNat
  if !bitAt b 36 then none
  else some { start := BitVec.ofNat 16 (bits a 15 0), stop := BitVec.ofNat 16 (bits a 31 16)
              remaining := bits a 63 32, kernel := bits b 31 0, stages := BitVec.ofNat 3 (bits b 34 32)
              drain := bitAt b 35, pipelined := free || decide (bits b 34 32 ≠ 0) }

/-- The levels in use, the innermost first. -/
def imgLoops (img : List Host.Cell) (free : Bool) : List LoopLevel :=
  ((List.range 4).filterMap (imgLoop img free)).reverse

/-- R248: the checkpointed registers of an area. -/
def imgRegs (img : List Host.Cell) (free : Bool) : Regs :=
  let st := imgWord img 0x10
  { Regs.reset with
    pc := (imgWord img 0x08).extractLsb' 0 16
    s := Vector.ofFn fun i => if i.val = 0 then 0 else imgWord img (0x100 + 8 * i.val)
    sh := Vector.ofFn fun i => imgWord img (0x300 + 8 * i.val)
    p := (imgWord img 0x48).extractLsb' 0 16 ||| 1
    k := Vector.ofFn fun i => if i.val = 0 then BitVec.allOnes 2048 else BitVec.ofNat 2048 (cellNat img (0x400 + 256 * i.val) 256)
    ix := Vector.ofFn fun i => imgWord img (0x60 + 8 * i.val)
    loops := imgLoops img free, fflags := imgWord img 0x18, ferec := imgWord img 0x20
    mode := st.getLsbD 0, dbgen := st.getLsbD 1, uien := st.getLsbD 2, inui := st.getLsbD 3
    stats := ⟨imgWord img 0xD8, imgWord img 0xE0, (imgWord img 0xE8).extractLsb' 0 32
      , (imgWord img 0xE8).extractLsb' 32 32, (imgWord img 0xF0).extractLsb' 0 32⟩ }

/-- R248: the matrix state of an area. -/
def imgMatrix (img : List Host.Cell) : MatrixRegs :=
  let a := imgWord img 0xC0
  let b := imgWord img 0xC8
  let c := imgWord img 0xD0
  { mlim := a.extractLsb' 0 6, cexp := a.extractLsb' 8 4, cont := a.getLsbD 16
    sat6 := b.extractLsb' 0 13, und6 := b.extractLsb' 13 13, can6 := b.extractLsb' 26 13
    sat8 := c.extractLsb' 0 13, und8 := c.extractLsb' 13 13, can8 := c.extractLsb' 26 13 }

/-- R248: the trap registers of an area. -/
def imgTrap (img : List Host.Cell) : TrapRegs :=
  let w (j : Nat) : Word := imgWord img (0x340 + 8 * j)
  { tvec := imgWord img 0x50, tcause := w 0, tepc := w 1, tstatus := w 2, tval := w 3, tovid := w 4
    tov := Vector.ofFn fun i => w (5 + i.val), tscr := Vector.ofFn fun i => w (13 + i.val) }

/-- R248: the context of an area: PARKED, every full/empty bit full. -/
def imgCtx (img : List Host.Cell) (free : Bool) (v : Ctx) : Ctx :=
  { Ctx.reset with
    occ := .parked, r := imgRegs img free, td := Vector.ofFn fun i => BitVec.ofNat 512 (cellNat img (0xC00 + 64 * i.val) 64)
    vshape := (imgWord img 0x40).extractLsb' 0 32, vwin := (imgWord img 0x40).extractLsb' 32 32
    spill := cellMove img 0x1000 4096 0
    statusHi := imgWord img 0x10 &&& 0x300, uivec := imgWord img 0x28, uiepc := imgWord img 0x30
    uicause := imgWord img 0x38, tr := imgTrap img, mx := imgMatrix img
    region := v.region + 1, seq := v.seq }

/-- The registers of an area with the bits that are not reserved (R58, R59, R71 to R74, R119, R121, R207, R382). -/
def areaMasks : List (Nat × Word) :=
  [(0x08, 0xFFFF), (0x10, 0x31F), (0x18, 0x1FFFFFFFFFFF), (0x20, 0x80011F07FFFFFFFF), (0x38, 0xFF01)
  , (0x40, 0x000001FF00F1FF7F), (0x50, 0x800000000000FFFF), (0x60, ixMask), (0x68, ixMask), (0x70, ixMask)
  , (0x78, ixMask), (0x88, 0x1FFFFFFFFF), (0x98, 0x1FFFFFFFFF), (0xA8, 0x1FFFFFFFFF), (0xB8, 0x1FFFFFFFFF)]
  ++ [(0xC0, 0x10F3F), (0xC8, 0x7FFFFFFFFF), (0xD0, 0x7FFFFFFFFF), (0xD8, 0x77FFFFFFFFF), (0xE0, 0x7FFFFFFFFF)
  , (0x340, 0x80000000FFF3FFFF), (0x348, 0xFFFF), (0x350, 0x31F)]

/-- R247: the levels in use keep their start and end in one half and in order; a body that ends with its half has the end 0
there (log 31). -/
def loopOk (l : LoopLevel) : Bool :=
  decide (l.start.toNat / 32768 = l.stop.toNat / 32768) && (decide (l.start.toNat ≤ l.stop.toNat) || decide (l.stop.toNat % 32768 = 0))

/-- R192: the reserved bits of a td register are zero. -/
def descClean (d : Desc) : Bool :=
  d.field 18 2 == 0 && d.field 32 31 == 0 && d.field 192 12 == 0 && d.field 240 16 == 0 && d.field 256 256 == 0

/-- R247: the checks of CTXLOAD on the bytes of an area for a partition of the given units. -/
def imageOk (units : Nat) (img : List Host.Cell) : Bool :=
  let head := (imgWord img 0).toNat
  decide (bits head 7 0 = 1) && decide (bits head 11 8 = units)
    && (areaMasks.all fun m => imgWord img m.1 &&& ~~~m.2 == 0)
    && (List.range 4).all (fun j => ixOk (units * 32) (imgWord img (0x60 + 8 * j)))
    && shapeOk ((imgWord img 0x40).extractLsb' 0 32)
    && decide (bits (imgWord img 0x40).toNat 40 32 < units * 32)
    && decide (bits (imgWord img 0xC0).toNat 5 0 ≤ 32)
    && decide ((imgWord img 0x08).toNat % 4 = 0)
    && (imgLoops img false).all loopOk
    && (List.range 16).all fun i => descClean (BitVec.ofNat 512 (cellNat img (0xC00 + 64 * i) 64))

/-- R403: the first line of an area that is poisoned, as a tensor address. -/
def State.areaPoison (s : State) (base : Nat) (pas : List Nat) : Option Nat :=
  ((pas.zip (List.range pas.length)).find? fun p => s.coh.poison.contains (lineOf p.1)).map fun p =>
    tensorByte base (64 * p.2 : Nat) 0

/-- R247: the lines of an area that the checks of CTXLOAD read: its registers. -/
def checkedLines : Nat := 64

/-- The context takes the registers, slabs and sidecars of an area (R247); the task that was saved there returns
to it. -/
def State.loadFrom (s : State) (c : CoreId) (x : CtxId) (base : Word) (img : List Host.Cell) : State :=
  let (free, s) := s.freshBool
  let k := s.coreAt c
  let n := k.partSlabs x
  let owner := s.tasks.find? fun t => t.saved == some (base, k.partUnits x)
  let v : Ctx := { imgCtx img free (k.ctxAt x) with
    task := owner.map (·.id), infl := owner.bind (·.infl)
    statusHi := if owner.any (·.castOvr) then (imgCtx img free (k.ctxAt x)).statusHi ||| 0x200 else (imgCtx img free (k.ctxAt x)).statusHi
    hostUnacked := (k.ctxAt x).hostUnacked
    cm := if (owner.bind (·.infl)).isSome then ⟨.done, 0⟩ else CommitState.idle }
  let keep (m : List Host.Cell) (a n : Nat) : List Host.Cell := cellClear m fun p => decide (a ≤ p) && decide (p < a + n)
  let s := s.setCore c
    { k.setCtx x v with
      df := cellPuts (keep k.df (k.slabAddr x 0) (n * 2048)) (cellMove img 0x2000 (n * 2048) (k.slabAddr x 0))
      side := cellPuts (keep k.side (k.sideAddr x 0) (n * 128)) (cellMove img (0x2000 + n * 2048) (n * 128) (k.sideAddr x 0))
      badWords := k.badWords.filter fun w => !(decide (k.slabAddr x 0 ≤ w * 4) && decide (w * 4 < k.slabAddr x n)) }
  match owner with
  | some t => s.modTask t.id fun t => { t with loc := some (c, x), saved := none, infl := none, castOvr := false }
  | none => s

/-! ### CTXSAVE and CTXLOAD -/

/-- R247: the context an instruction names, when it may: another context of the core, with a save area. -/
def State.otherCtx (s : State) (y : Word) (k : CtxId → Word → State) : State :=
  let x : CtxId := y.extractLsb' 0 2
  let base := s.myCore.saveBase[x.toNat]'x.isLt
  s.check (decide (bits y.toNat 63 2 = 0) && x != s.cur.ctx && base != 0) .illegalOperand (k x base)

def execCtxsave (a : SReg) (ma : Bool) (s : State) : Out :=
  .next (s.readS a ma fun y => s.isolatedOp (s.otherCtx y fun x base =>
    s.check ((s.myCore.ctxAt x).occ == .parked) .illegalOperand
      (match s.areaOf base.toNat (s.myCore.partUnits x) true with
      | .error e => s.trapSlotVal .tileTable (BitVec.ofNat 64 e)
      | .ok pas =>
        s.commitPoint (.ctxsave a ma) fun s =>
          if s.myCore.fillsOf x then s.block else s.saveTo s.cur.core x base pas)))

def execCtxload (a : SReg) (ma : Bool) (s : State) : Out :=
  .next (s.readS a ma fun y => s.isolatedOp (s.otherCtx y fun x base =>
    s.check ((s.myCore.ctxAt x).occ == .free) .illegalOperand
      (match s.areaOf base.toNat (s.myCore.partUnits x) false with
      | .error e => s.trapSlotVal .tileTable (BitVec.ofNat 64 e)
      | .ok pas =>
        match s.areaPoison base.toNat (pas.take checkedLines) with
        | some e => s.trapSlotVal .tileTable (BitVec.ofNat 64 e)
        | none =>
          let img := s.areaImage pas
          s.check (imageOk (s.myCore.partUnits x) img) .illegalOperand
            (match s.areaPoison base.toNat pas with
            | some e => s.trapSlotVal .tileTable (BitVec.ofNat 64 e)
            | none => s.commitPoint (.ctxload a ma) fun s => s.loadFrom s.cur.core x base img))))

/-! ### Saves and restores by the core (R49, R249, R325) -/

/-- R249: an area that the core cannot use is logged. -/
def State.logArea (s : State) (c : CoreId) (x : CtxId) (a : Nat) : State :=
  s.logEvent (coreEntry 0x2D 2 c x 0 (BitVec.ofNat 64 a))

/-- R49, R249: the core saves a PARKED context; false when it has no area that can be used. -/
def State.coreSave (s : State) (c : CoreId) (x : CtxId) : Bool × State :=
  let k := s.coreAt c
  let base := k.saveBase[x.toNat]'x.isLt
  if base = 0 ∨ (k.ctxAt x).occ ≠ .parked ∨ k.fillsOf x then (false, s)
  else
    match s.areaOf base.toNat (k.partUnits x) true with
    | .error a => (false, s.logArea c x a)
    | .ok pas => (true, s.saveTo c x base pas)

/-- R249, R325: a saved task is restored into a FREE context; false, with a log entry, when its area is refused,
poisoned or fails a check. -/
def State.coreRestore (s : State) (c : CoreId) (x : CtxId) (base : Word) : Bool × State :=
  let k := s.coreAt c
  match s.areaOf base.toNat (k.partUnits x) false with
  | .error a => (false, s.logArea c x a)
  | .ok pas =>
    match s.areaPoison base.toNat pas with
    | some a => (false, s.logArea c x a)
    | none =>
      let img := s.areaImage pas
      if imageOk (k.partUnits x) img then (true, s.loadFrom c x base img) else (false, s.logArea c x base.toNat)

end Sys2Proof.Machine
end

