-- ==== Sys2Proof/Machine/Records.lean ====
section
/-! DEFINITION. Machine/Records.lean: task records, the appender of the launch queues and TSPAWN (R231, R313 to
R320). -/

namespace Sys2Proof.Machine

/-! ### The record's bytes (R315, R316) -/

/-- R315: mask bit and size in bytes of each field, in bit order. -/
def recordFields : List (Nat × Nat) :=
  [(0, 4), (1, 8), (2, 8), (3, 8), (4, 8), (5, 8), (6, 8), (7, 8), (8, 8), (9, 16), (10, 4), (11, 4), (12, 2), (13, 8)
  , (14, 8), (15, 2)]

/-- R315: the length of a record with the given mask. -/
def recordLen (mask : Nat) : Nat := 2 + ((recordFields.filter fun f => bitAt mask f.1).map (·.2)).sum

/-- R316: one field of the record replaces that of the base. -/
def TaskRec.put (t : TaskRec) (bit : Nat) (v : Nat) : TaskRec :=
  if bit = 0 then { t with img := some (BitVec.ofNat 32 v) }
  else if bit ≤ 8 then { t with args := t.args.setIfInBounds (bit - 1) (BitVec.ofNat 64 v) }
  else if bit = 9 then { t with deps := Vector.ofFn fun i => BitVec.ofNat 32 (v / 2 ^ (32 * i.val)) }
  else if bit = 10 then { t with res := BitVec.ofNat 32 v }
  else if bit = 11 then { t with cast := BitVec.ofNat 32 v }
  else if bit = 12 then { t with cls := BitVec.ofNat 16 v }
  else if bit = 13 then { t with aff := BitVec.ofNat 64 v }
  else if bit = 14 then { t with charge := BitVec.ofNat 64 v }
  else { t with flags := BitVec.ofNat 16 v }

/-- R316: the record's fields over the base. -/
def expandFields (mask : Nat) : List (Nat × Nat) → List Byte → TaskRec → TaskRec
  | [], _, t => t
  | f :: rest, bs, t =>
    if bitAt mask f.1 then expandFields mask rest (bs.drop f.2) (t.put f.1 (leVal (bs.take f.2)))
    else expandFields mask rest bs t

def expandRecord (base : TaskRec) (bs : List Byte) : TaskRec :=
  expandFields (leVal (bs.take 2)) recordFields (bs.drop 2) base

/-- The image id and the entry offset of a record. -/
def TaskRec.imgId (t : TaskRec) : Nat := bits ((t.img.getD 0).toNat) 15 0
def TaskRec.entry (t : TaskRec) : Nat := bits ((t.img.getD 0).toNat) 31 16

/-- R315: the fields of CLS and FLAGS. -/
def TaskRec.override (t : TaskRec) : Option Nat := if t.cls.getLsbD 6 then some (bits t.cls.toNat 5 0) else none
def TaskRec.cls2 (t : TaskRec) : Nat := bits t.cls.toNat 8 7
def TaskRec.restarts (t : TaskRec) : Bool := t.flags.getLsbD 0
def TaskRec.bothHalves (t : TaskRec) : Bool := t.flags.getLsbD 1

/-! ### Dies, queues and images -/

/-- R424: the die whose stage manager serves the queues of die d. -/
def State.servedBy (s : State) (d : Bool) : Bool := if (s.dieAt d).adopted then !d else d

/-- R338: FUNC_READY.DIE. -/
def State.dieReady (s : State) (d : Bool) : Bool := s.dev.funcReady.getLsbD (24 + boolNat d)

/-- R314, R338: a queue that exists. -/
def State.queueUp (s : State) (d : Bool) (q : BitVec 6) : Bool :=
  s.dieFitted d && (s.dieReady d || (s.dieAt d).adopted) && (s.queueAt d q).active

/-- R343, R424: an image that is loaded on die d. -/
def Image.onDie (m : Image) (d : Bool) : Bool := m.dies.getLsbD (boolNat d)
def State.imageOn (s : State) (id : Nat) (d : Bool) : Option Image :=
  s.images.find? fun m => m.id == id && (m.onDie d || ((s.dieAt (!d)).adopted && m.onDie (!d)))

/-- R317: the rules of a well-formed expanded record. -/
def State.recordOk (s : State) (t : TaskRec) (d : Bool) : Bool :=
  t.img.isSome
    && (match s.imageOn t.imgId (s.servedBy d) with
      | some m => decide (t.entry < m.text.length)
      | none => false)
    && decide (t.entry % 4 = 0) && decide (t.entry < 32768) && decide (t.cls2 < 2)
    && decide (bits t.cls.toNat 15 9 = 0) && decide (bits t.flags.toNat 15 2 = 0)

/-- R314: records that a queue holds, and tasks of a die's table. -/
def State.queueCount (s : State) (d : Bool) (q : BitVec 6) : Nat :=
  (s.tasks.filter fun t => t.qdie == d && t.queue == q && !t.ran && !t.timedSeg && t.scan.isNone).length
def State.tableCount (s : State) (d : Bool) : Nat :=
  (s.tasks.filter fun t => s.servedBy t.qdie == s.servedBy d).length

/-! ### A new task (R319, R320) -/

/-- R319: some dependence makes the task fail. -/
def State.depBad (s : State) (h : BitVec 32) : Bool :=
  futIndex h != 0 &&
    (match s.futLook h with
     | .ok e => e.st == .failed
     | _ => true)

/-- R319, R320: the task joins the waiter list of each PENDING dependence once. -/
def State.joinDeps (s : State) (id : Nat) (hs : List (BitVec 32)) : State :=
  hs.foldl (fun s h =>
    match s.futLook h with
    | .ok e =>
      if futIndex h ≠ 0 ∧ e.st = .pending ∧ !e.waiters.contains (.dep id) then
        s.setFut (futIndex h) { e with waiters := e.waiters ++ [.dep id] }
      else s
    | _ => s) s

/-- R319: the first transition of a NEW task. -/
def State.resolveTask (s : State) (id : Nat) : State :=
  match s.taskAt id with
  | none => s
  | some t =>
    if t.tr.deps.toList.any s.depBad then s.failTask id
    else if s.depsReady t then s.modTask id fun t => { t with st := .ready }
    else (s.joinDeps id t.tr.deps.toList).modTask id fun t => { t with st := .waiting }

/-- A task in state NEW. -/
def newTask (id : Nat) (d : Bool) (q : BitVec 6) (r : TaskRec) (age : Nat) : Task :=
  { id := id, qdie := d, queue := q, timedSeg := false, scan := none, tr := r, st := .new, age := age, ran := false
    charged := false, loc := none, saved := none, infl := none, why := .none, asked := [], tried := [], placed := 0, castOvr := false, notOn := [] }

/-- R314, R316: the appender of a queue; bs is none for a record that ends beyond its tensor. The result is the
append code. A malformed record that meets a full queue or task table gets code 1 (DESIGN CHOICE, log 60). -/
def State.append (s : State) (d : Bool) (q : BitVec 6) (bs : Option (List Byte)) : Nat × State :=
  if !s.queueUp d q then (3, s)
  else
    let qu := s.queueAt d q
    if qu.cap.toNat ≤ s.queueCount d q ∨ Config.taskTable ≤ s.tableCount d then (1, s)
    else
      match bs with
      | none => (2, s)
      | some bs =>
        let full := expandRecord qu.base bs
        if !s.recordOk full d then (2, s)
        else
          let (a, s) := s.takeAge
          let id := s.nextTask
          let s := s.modQueue d q fun v => { v with base := full }
          let s := { s with tasks := s.tasks ++ [newTask id d q full a], nextTask := id + 1 }
          (0, s.resolveTask id)

/-! ### TSPAWN (R231, R315) -/

/-- R315: the keys of n bytes of a record from its address on: none where they run beyond the tensor, an error with
the first refused address where a byte cannot be read. -/
def State.recordKeys (s : State) (a n : Nat) : Except Nat (Option (List (Nat × PageKind))) :=
  let d := s.descOf (a / 2 ^ 48 % 65536)
  if d.valid ∧ d.size < a % 2 ^ 48 + n then .ok none
  else
    match s.keysOf false ((List.range n).map fun j => tensorByte a 0 j) with
    | .error e => .error e
    | .ok ks =>
      match (ks.zip (List.range n)).find? fun k =>
          k.1.2 == .ordered || k.1.2 == .remote || s.coh.poison.contains (lineOf k.1.1) with
      | some k => .error (tensorByte a 0 k.2)
      | none => .ok (some ks)

/-- R231, R315: TSPAWN's read of bytes at keys, which waits for space, tokens and data like any read of its context (R39, R40,
R277), and goes on with k. -/
def State.spawnBytes (s : State) (keys : List (Nat × PageKind)) (k : List Byte → State → State) : State :=
  let c := s.cur.core
  let x := s.cur.ctx
  let lines := trackedLines keys
  if s.spaceWaits c x false keys then s.block
  else
    match s.pinAll c x .engine true lines with
    | (false, s) => (s.spaceRule c x).block
    | (true, s) =>
      let (bs, s) := ((s.recordBytes c x keys).spaceRule c x).loadBytes c x false 0 keys
      k bs s

/-- R315, R379, R383: the bytes of the record at a tensor address, its mask first and then all that the mask names, or none
where it runs beyond its tensor; a refusal, a race or an overflow is an operation exception. -/
def State.readRecord (s : State) (a : Nat) (k : Option (List Byte) → State → State) : State :=
  let free (s : State) : State := s.releasePins s.cur.core s.cur.ctx
  match s.me.readHit with
  | some ovf =>
    (s.modMe fun v => { v with readHit := none }).trapOp (if ovf then .overflow else .memoryModel) (BitVec.ofNat 64 a)
  | none =>
    match s.recordKeys a 2 with
    | .error e => (free s).trapOp .tileTable (BitVec.ofNat 64 e)
    | .ok none => k none (free s)
    | .ok (some m) =>
      s.spawnBytes m fun mask s =>
        match s.recordKeys a (recordLen (leVal mask)) with
        | .error e => (free s).trapOp .tileTable (BitVec.ofNat 64 e)
        | .ok none => k none (free s)
        | .ok (some ks) => s.spawnBytes ks fun bs s => k (some bs) (free (s.clearPort s.cur.core (trackedLines ks)))

/-- R235, R269, R270: the bound of the read of the record at a tensor address. -/
def State.spawnBound (s : State) (a : Nat) : Nat × State :=
  let c := s.cur.core
  let path := match s.recordKeys a 2 with
    | .ok (some ks) => (ks.map (s.pathBound c false)).foldl max 0
    | _ => 0
  let (xlat, s) := s.lookupAll c [a]
  (xlat + path, s)

/-- R231: TSPAWN. -/
def execTspawn (d a b : SReg) (ma mb : Bool) (s : State) : Out :=
  .next (s.readSS a b ma mb fun x y =>
    s.check (decide (bits y.toNat 63 7 = 0)) .illegalOperand
      (s.commitPoint (.tspawn d a b ma mb) fun s =>
        s.readRecord x.toNat fun bs s =>
          let (n, s) := s.spawnBound x.toNat
          let r := s.append (y.getLsbD 6) (y.extractLsb' 0 6) bs
          r.2.regWrite d (BitVec.ofNat 64 r.1) (n + 40)))

end Sys2Proof.Machine
end

