-- ==== Sys2Proof/Machine/Place.lean ====
section
/-! DEFINITION. Machine/Place.lean: the stage managers' work on throughput cores: selection, residency, placement,
pre-emption, resumption, context saves and token buckets (R28, R46, R49, R322 to R328). -/

namespace Sys2Proof.Machine

/-! ### Task entry (R28) -/

/-- R28: the context of a task that enters: every value of the table; slabs, spill store and the numbers that order
regions and results stay. -/
def Ctx.entered (v : Ctx) (t : Task) (pc : BitVec 16) (priv : Bool) : Ctx :=
  let args (i : Nat) : Word := t.tr.args[i]!
  { Ctx.reset with
    occ := .running, task := some t.id, spill := v.spill, region := v.region + 1, seq := v.seq, hostUnacked := v.hostUnacked
    r := { Regs.reset with
      pc := pc, mode := priv
      s := Vector.ofFn fun i =>
        if 1 ≤ i.val ∧ i.val ≤ 8 then args (i.val - 1)
        else if i.val = 9 then (if futIndex t.tr.res = 0 then 0 else t.tr.res.setWidth 64)
        else if i.val = 10 then t.tr.cast.setWidth 64
        else 0 } }

/-- R28, R88, R154: a resumption from PARKED; a drained pipelined loop starts its prologue again; bundles fetched ahead are discarded (R227). -/
def Ctx.resumed (v : Ctx) : Ctx :=
  { v with occ := .running, r := v.r.refill, preemptReq := false, stale := [], predAge := Vector.replicate 16 1 }

/-- R322: a task joins its cast when it first runs; false when it fails instead. -/
def State.joinCast (s : State) (t : Task) : Bool × State :=
  if t.tr.cast = 0 then (true, s)
  else if castBad t.tr.cast then (false, s)
  else
    match s.castLook t.tr.cast with
    | none => (false, s)
    | some e =>
      if 512 ≤ e.members.length ∧ !e.members.contains t.id then (false, s)
      else (true, s.setCast (castIndex t.tr.cast) (e.join t.id))

/-- R325, R328: CHARGE is debited once, at the first placement. -/
def State.chargeTask (s : State) (t : Task) : State :=
  if t.charged then s
  else
    let w := t.tr.charge.toNat
    (s.modQueue t.qdie t.queue fun q =>
      if q.timed then q else q.debit (bits w 23 0) (64 * bits w 47 24) (bits w 63 48)).modTask t.id fun t =>
        { t with charged := true }

/-- A task enters a FREE context at its entry, in the given half (R28, R322, R325). -/
def State.enterTask (s : State) (c : CoreId) (x : CtxId) (t : Task) (half : Bool) (priv : Bool) : State :=
  let (p, s) := s.takeAge
  match s.joinCast t with
  | (false, s) => s.failTask t.id
  | (true, s) =>
    let s := s.chargeTask t
    let s := s.modTask t.id fun t =>
      { t with st := .running, ran := true, loc := some (c, x), why := .none, placed := p }
    let s := if t.scan.isSome then s else s.modCore c fun k => { k with gapUsed := false }
    s.modCtx c x fun v => v.entered t (BitVec.ofNat 16 (32768 * boolNat half + t.tr.entry)) priv

/-- R319: a READY task goes on in the context that holds it; a user-level interrupt may be delivered first (R236). -/
def State.resumeCtx (s : State) (c : CoreId) (x : CtxId) (id : Nat) : State :=
  let s := s.modTask id fun t => { t with st := .running, ran := true, why := .none, loc := some (c, x) }
  let s := (s.modCore c fun k => { k with gapUsed := false }).modCtx c x Ctx.resumed
  if (s.ctxAt c x).infl.isNone then s.deliverUi c x else s

/-! ### Residency (R324) -/

def halfIx (h : Bool) : Fin 2 := if h then 1 else 0

/-- The task that a context holds. -/
def State.taskOf (s : State) (c : CoreId) (x : CtxId) : Option Task := (s.ctxAt c x).task.bind s.taskAt

/-- R324: a task on the core has BOTHHALVES set. -/
def State.bothHeld (s : State) (c : CoreId) : Bool :=
  allCtxs.any fun x => (s.ctxAt c x).occ != .free &&
    (match s.taskOf c x with
     | some t => t.tr.bothHalves
     | none => false)

/-- R324: no context of the core has its task's active half there. -/
def State.halfFree (s : State) (c : CoreId) (h : Bool) : Bool :=
  !s.bothHeld c && allCtxs.all fun x => (s.ctxAt c x).occ == .free || (s.ctxAt c x).r.pc.getLsbD 15 != h

/-- R324: the image held in a half. -/
def State.residentIn (s : State) (c : CoreId) (h : Bool) (img : Nat) : Bool := (s.coreAt c).resid[(halfIx h).val] == some img

/-- R324: the text goes into a half. -/
def State.loadHalf (s : State) (c : CoreId) (h : Bool) (m : Image) : State :=
  if s.residentIn c h m.id then s
  else s.modCore c fun k =>
    { k with scratch := cellWrite k.scratch (32768 * boolNat h) m.text, resid := k.resid.set (halfIx h).val (some m.id) }

/-- R125, R325: the half in which a saved task resumes, bit 15 of its saved PC. -/
def State.savedHalf (s : State) (base : Word) : Bool :=
  (s.byteKey (tensorByte base.toNat 9 0) false).any fun k => (cellGet s.mem k.1).getLsbD 7

/-- R324, R325: the half a task takes on a core, if it can: with its image resident, or free. A task with BOTHHALVES takes
one only where no other task is present, and no other task takes one beside it. -/
def State.halfFor (s : State) (c : CoreId) (t : Task) : Option Bool :=
  let img := t.tr.imgId
  let ok (h : Bool) : Bool := s.residentIn c h img || s.halfFree c h
  if s.bothHeld c || (t.tr.bothHalves && !(allCtxs.all fun x => (s.ctxAt c x).occ == .free)) then none
  else
    match t.saved with
    | some (base, _) => if ok (s.savedHalf base) then some (s.savedHalf base) else none
    | none =>
      if s.residentIn c false img then some false
      else if s.residentIn c true img then some true
      else if s.halfFree c false then some false
      else if s.halfFree c true then some true
      else none

/-! ### Selection (R323) -/

/-- R323: the effective priority of a task. -/
def State.prioOf (s : State) (t : Task) : Nat := (t.tr.override).getD (s.queueAt t.qdie t.queue).prio.toNat

/-- R313, R315: a task for throughput cores; adopted TIMED queues are not served (R424). -/
def State.throughput (s : State) (t : Task) : Bool :=
  let timed := (s.queueAt t.qdie t.queue).timed
  !t.timedSeg && t.scan.isNone && (!timed || (t.tr.cls2 == 1 && s.servedBy t.qdie == t.qdie))

/-- A READY task without a context that die d may place (R323, R328). -/
def State.waitsOn (s : State) (d : Bool) (t : Task) : Bool :=
  t.st == .ready && t.loc.isNone && s.servedBy t.qdie == d && s.throughput t && !s.taskBroke t

/-- R323, R246, R375, R415, R419: a core that takes throughput tasks. -/
def State.takesTasks (s : State) (c : CoreId) : Bool :=
  let k := s.coreAt c
  k.ready && !k.wings && !k.timed && !k.suspect && k.retiring.isNone && k.scanTask.isNone && k.scanRun.isNone && !s.bothHeld c

/-- R323, R374, R424: a core on which a task is eligible. -/
def State.eligible (s : State) (d : Bool) (t : Task) (c : CoreId) : Bool :=
  dieOf c == d && s.takesTasks c && !t.notOn.contains c
    && (match s.logicalOf c with
      | some l => t.tr.aff == 0 || t.qdie != d || t.tr.aff.getLsbD l
      | none => false)
    && (match t.saved with
      | some (_, n) => allCtxs.any fun x => (s.coreAt c).partUnits x == n
      | none => true)

/-- R49: a context whose partition fits a task: one of the SIZE of its saved area. -/
def Core.fits (k : Core) (x : CtxId) (t : Task) : Bool :=
  match t.saved with
  | some (_, n) => k.partUnits x == n
  | none => true

/-- A FREE context of a core that fits a task. -/
def State.freeFor (s : State) (c : CoreId) (t : Task) : Option CtxId :=
  allCtxs.find? fun x => (s.ctxAt c x).occ == .free && (s.coreAt c).fits x t

/-- The cores of a die in logical order, after the core last chosen (R324). -/
def State.coreOrder (s : State) (d : Bool) : List CoreId :=
  let l := (s.dieAt d).lastCore.toNat
  ((List.range 64).map fun i => (l + 1 + i) % 64).filterMap fun i => s.physicalOf d (BitVec.ofNat 6 i)

/-- R324: the core and the half a task is placed on. -/
def State.pickCore (s : State) (d : Bool) (t : Task) : Option (CoreId × Bool) :=
  let cs := (s.coreOrder d).filter fun c => s.eligible d t c && (s.freeFor c t).isSome
  let opts := cs.filterMap fun c => (s.halfFor c t).map fun h => (c, h)
  match opts.find? fun o => s.residentIn o.1 o.2 t.tr.imgId with
  | some o => some o
  | none => opts.head?

/-- R323: the number of a queue in the rotation of die d. -/
def rotIx (d : Bool) (t : Task) : Nat := t.queue.toNat + 64 * boolNat (t.qdie != d)

/-- The better of two tasks of one queue: higher priority, then older. -/
def State.olderOf (s : State) (a b : Task) : Task :=
  if s.prioOf b < s.prioOf a ∨ (s.prioOf a = s.prioOf b ∧ b.age < a.age) then b else a

/-- R323: the heads of the queues that die d serves. -/
def State.heads (s : State) (d : Bool) : List Task :=
  let ts := s.tasks.filter (s.waitsOn d)
  (distinct (ts.map (rotIx d))).filterMap fun q =>
    match ts.filter fun t => rotIx d t = q with
    | t :: rest => some (rest.foldl s.olderOf t)
    | [] => none

/-- R323: how far a queue stands after the one served last at its priority. -/
def State.rotDist (s : State) (d : Bool) (t : Task) : Nat :=
  (rotIx d t + 127 - (s.dieAt d).rr[s.prioOf t % 64]!) % 128

/-- R323: the order in which the heads are tried. -/
def State.headBefore (s : State) (d : Bool) (a b : Task) : Bool :=
  decide (s.prioOf a < s.prioOf b) || (s.prioOf a == s.prioOf b && decide (s.rotDist d a ≤ s.rotDist d b))

def insertTask (le : Task → Task → Bool) (t : Task) : List Task → List Task
  | [] => [t]
  | u :: rest => if le t u then t :: u :: rest else u :: insertTask le t rest

def State.headOrder (s : State) (d : Bool) : List Task :=
  (s.heads d).foldl (fun l t => insertTask (s.headBefore d) t l) []

/-! ### Placement (R325, R326) -/

/-- R325: a task enters a FREE context of a core, in the given half: at its entry, or, when it is saved, restored from its
area. One that cannot be restored enters FAILED (R249). -/
def State.putTask (s : State) (c : CoreId) (x : CtxId) (t : Task) (half : Bool) (m : Image) : State :=
  let s := s.loadHalf c half m
  match t.saved with
  | none => s.enterTask c x t half m.priv
  | some (base, _) =>
    match s.coreRestore c x base with
    | (true, s) =>
      let (p, s) := s.takeAge
      (s.modTask t.id fun t => { t with placed := p }).resumeCtx c x t.id
    | (false, s) => s.failTask t.id

/-- R325: a task is placed on a FREE context of a core, in the given half. -/
def State.placeOn (s : State) (d : Bool) (t : Task) (c : CoreId) (x : CtxId) (half : Bool) : State :=
  let l := (s.logicalOf c).getD 0
  let p := s.prioOf t % 64
  let s := s.modDie d fun v =>
    { v with lastCore := BitVec.ofNat 6 l, rr := v.rr.setIfInBounds p (rotIx d t) }
  match s.imageOn t.tr.imgId d with
  | none => s.failTask t.id
  | some m => s.putTask c x t half m

/-- R326: the running task of lowest priority on an eligible core, below that of t; the most recently placed one
among equals. -/
def State.victimFor (s : State) (d : Bool) (t : Task) : Option Task :=
  let vs := s.tasks.filter fun v =>
    v.st == .running && decide (s.prioOf t < s.prioOf v) &&
      (match v.loc with
       | some (c, _) => s.eligible d t c
       | none => false)
  match vs with
  | [] => none
  | v :: rest => some (rest.foldl (fun a b =>
      if s.prioOf a < s.prioOf b ∨ (s.prioOf a = s.prioOf b ∧ a.placed < b.placed) then b else a) v)

/-- A pre-emption request reaches a running context (R48); timed tasks are never pre-empted (R331). -/
def State.sendPreempt (s : State) (c : CoreId) (x : CtxId) : State :=
  if (s.ctxAt c x).occ = .running ∧ !(s.coreAt c).timed then s.modCtx c x fun v => { v with preemptReq := true } else s

/-- R326: a task of lower priority than t that is PARKED in a context of an eligible core, with that core. -/
def State.parkedBelow (s : State) (d : Bool) (t u : Task) : Option (Nat × CoreId) :=
  match u.loc with
  | some (c, x) => if (s.ctxAt c x).occ = .parked ∧ s.prioOf t < s.prioOf u ∧ s.eligible d t c = true then some (u.id, c) else none
  | none => none

/-- R326: the victim of t that has parked and was not used yet; once no save for a victim succeeded, any other task that parks is
handled afresh. -/
def State.answered (s : State) (d : Bool) (t : Task) : Option (Nat × CoreId) :=
  let new (u : Task) : Bool := !t.tried.contains u.id && (t.asked.contains u.id || !t.tried.isEmpty)
  (s.tasks.filter new).findSome? fun u => s.parkedBelow d t u

/-- R326: the PARKED context of a core whose task has the lowest priority, the youngest among equals. -/
def State.saveChoice (s : State) (c : CoreId) : Option CtxId :=
  let xs := allCtxs.filter fun x => (s.ctxAt c x).occ == .parked && (s.taskOf c x).isSome
  let key (x : CtxId) : Nat × Nat := match s.taskOf c x with
    | some t => (s.prioOf t, t.age)
    | none => (0, 0)
  match xs with
  | [] => none
  | x :: rest => some (rest.foldl (fun a b =>
      if (key a).1 < (key b).1 ∨ ((key a).1 = (key b).1 ∧ (key a).2 < (key b).2) then b else a) x)

/-- R44, R49, R326: a core whose victim has parked saves a context, once its fills have landed, and t is placed there. -/
def State.placeBySave (s : State) (d : Bool) (t : Task) (victim : Nat) (c : CoreId) : Bool × State :=
  let used (s : State) : State := s.modTask t.id fun t => { t with tried := t.tried ++ [victim] }
  match s.saveChoice c with
  | none => (false, used s)
  | some x =>
    if (s.coreAt c).fillsOf x then (false, s)
    else match (used s).coreSave c x with
    | (false, s) => (false, s)
    | (true, s) =>
      match s.freeFor c t, s.halfFor c t with
      | some x, some h => (true, if s.takesTasks c then s.placeOn d t c x h else s)
      | _, _ => (true, s)

/-- R324, R326: some eligible core has a FREE context for the task, so that it waits for a half and nothing is pre-empted or
saved for it. -/
def State.someFree (s : State) (d : Bool) (t : Task) : Bool :=
  (s.coreOrder d).any fun c => s.eligible d t c && (s.freeFor c t).isSome

/-- R323 to R326: what the stage manager does for one head; true when it acted. -/
def State.serveHead (s : State) (d : Bool) (t : Task) : Bool × State :=
  match s.pickCore d t with
  | some (c, h) =>
    match s.freeFor c t with
    | some x => (true, s.placeOn d t c x h)
    | none => (false, s)
  | none =>
    if s.someFree d t then (false, s)
    else match s.answered d t with
    | some (v, c) => s.placeBySave d t v c
    | none =>
      match s.victimFor d t with
      | some v =>
        if t.asked.contains v.id then (false, s)
        else
          match v.loc with
          | some (c, x) =>
            (true, (s.modTask t.id fun t => { t with asked := t.asked ++ [v.id] }).sendPreempt c x)
          | none => (false, s)
      | none => (false, s)

/-- The first head for which the stage manager can act. -/
def State.serveHeads (s : State) (d : Bool) : List Task → Bool × State
  | [] => (false, s)
  | t :: rest =>
    match s.serveHead d t with
    | (true, s) => (true, s)
    | (false, s) => s.serveHeads d rest

/-- R323 to R326, R338, R351: one action of a die's stage manager. -/
def State.placement (s : State) (d : Bool) : Bool × State :=
  if s.dieReady d && !(s.dieAt d).stopPlacing then s.serveHeads d (s.headOrder d) else (false, s)

def execTaskPlacement (die : Bool) (s : State) : Out := .next (s.placement die).2

/-- R44, R326: a head waits for the fills of the context to land, so that the core can save it. -/
def State.saveWaits (s : State) (c : CoreId) (x : CtxId) : Bool :=
  let d := dieOf c
  (s.coreAt c).fillsOf x && s.saveChoice c == some x && (s.heads d).any fun t =>
    (s.pickCore d t).isNone && !s.someFree d t && (s.answered d t).any fun v => v.2 == c

/-- R415: a retiring core resumes only a task that it can neither save nor start again elsewhere. -/
def Core.staysIn (k : Core) (x : CtxId) : Bool :=
  match k.retiring with
  | some r => r.kept.getLsbD x.toNat
  | none => true

/-- R319: a context whose READY task its stage manager can resume. -/
def State.canResume (s : State) (c : CoreId) (x : CtxId) : Bool :=
  (s.ctxAt c x).occ == .parked && !(s.coreAt c).timed && (s.coreAt c).staysIn x && !s.saveWaits c x &&
    (match s.taskOf c x with
     | some t => t.st == .ready && !s.taskBroke t
     | none => false)

def execTaskResume (c : CoreId) (x : CtxId) (s : State) : Out :=
  .next (if s.canResume c x then s.resumeCtx c x ((s.ctxAt c x).task.getD 0) else s)

def execPreemptionRequest (c : CoreId) (x : CtxId) (s : State) : Out := .next (s.sendPreempt c x)

/-- R49: a core saves a PARKED context for an incoming task that finds no FREE one on it. -/
def execHwContextSave (c : CoreId) (x : CtxId) (s : State) : Out :=
  .next (if (allCtxs.all fun y => (s.ctxAt c y).occ != .free)
      && s.tasks.any fun t => s.waitsOn (dieOf c) t && s.eligible (dieOf c) t c then
    (s.coreSave c x).2
  else s)

/-! ### Token buckets (R327, R328) -/

def execDebitReport (c : CoreId) (s : State) : Out := .next (s.reportDebits c)

/-- R327: n refills of a bucket. -/
def Bucket.refills (b : Bucket) (n : Nat) : Bucket :=
  if n = 0 then b else { b with bal := min b.depth.toNat (b.bal + n * b.rate.toNat) }

def Queue.refills (q : Queue) (n : Nat) : Queue :=
  if q.active && !q.timed then { q with cyc := q.cyc.refills n, byt := q.byt.refills n, en := q.en.refills n } else q

/-- R319, R328: a task that is PARKED for an empty bucket becomes READY once its queue has none. -/
def State.wakeBuckets (s : State) : State :=
  (s.tasks.filter fun t => t.st == .parked && t.why == .bucket).foldl (fun s t =>
    if s.taskBroke t then s
    else
      let (a, s) := s.takeAge
      s.modTask t.id fun t => { t with st := .ready, age := a }) s

/-- R327: n whole microseconds pass. -/
def State.refillBuckets (s : State) (n : Nat) : State :=
  let one (v : Die) : Die := { v with queues := v.queues.map fun q => q.refills n }
  ((s.modDie false one).modDie true one).wakeBuckets

def execBucketRefill (s : State) : Out := .next (s.refillBuckets 1)

end Sys2Proof.Machine
end

