-- ==== Sys2Proof/Machine/Timed.lean ====
section
/-! DEFINITION. Machine/Timed.lean: timed cores: the running order and its segments (R47, R330 to R332). -/

namespace Sys2Proof.Machine

/-- R330: the length of a segment's slot. -/
def Segment.len (g : Segment) : Nat := g.cost + g.slack + g.hcost

/-- The current segment. -/
def RunOrder.seg (o : RunOrder) : Option Segment := o.segs[o.cur]?

def State.modOrder (s : State) (c : CoreId) (f : RunOrder → RunOrder) : State :=
  s.modCore c fun k => { k with order := k.order.map f }

/-- R330, R331: the current segment can start. -/
def State.segmentDue (s : State) (c : CoreId) : Bool :=
  let k := s.coreAt c
  match k.order with
  | some o => k.ready && k.timed && !o.started && decide (o.startNs ≤ s.timeNs) && decide (o.slotStart ≤ k.cycle)
  | none => false

/-- The context of the segment has a task that runs. -/
def State.segmentLives (s : State) (c : CoreId) : State := s.modOrder c fun o => { o with live := true }

/-- A task enters the segment's context (R325, R331); it runs when the context then holds it. -/
def State.segmentEnter (s : State) (c : CoreId) (x : CtxId) (t : Task) : State :=
  match s.imageOn t.tr.imgId (dieOf c), s.halfFor c t with
  | some m, some h =>
    let s := s.putTask c x t h m
    if (s.ctxAt c x).occ = .running then s.segmentLives c else s
  | _, _ => s

/-- R331: the eight argument words at a tensor address; none when they cannot be read. -/
def State.segmentArgs (s : State) (c : CoreId) (x : CtxId) (a : Nat) : Option (List Byte × State) :=
  (s.keysOf false ((List.range 64).map fun i => tensorByte a 0 i)).toOption.map (s.loadBytes c x false 0)

def State.segmentWith (s : State) (c : CoreId) (g : Segment) (args : Option (List Byte × State)) : State :=
  match args with
  | none => s
  | some (bs, s) =>
    let r : TaskRec := { TaskRec.reset with
      img := some (g.entry ++ g.image), args := Vector.ofFn fun i => BitVec.ofNat 64 (leVal ((bs.drop (8 * i.val)).take 8)) }
    let (a, s) := s.takeAge
    let t : Task := { newTask s.nextTask (dieOf c) 0 r a with timedSeg := true, st := .ready }
    let s := { s with tasks := s.tasks ++ [t], nextTask := t.id + 1 }
    let s := s.segmentEnter c g.ctx t
    if (s.ctxAt c g.ctx).task = some t.id then s else { s with tasks := s.tasks.filter fun u => u.id ≠ t.id }

/-- R331: a new task at the segment's IMAGE and ENTRY. A slot whose arguments cannot be read stays idle (log 24). -/
def State.segmentFixed (s : State) (c : CoreId) (g : Segment) : State :=
  s.segmentWith c g (s.segmentArgs c g.ctx g.args.toNat)

/-- R331: the oldest READY task of a TIMED queue of the die that context x can take: a saved one with the SIZE of its area. -/
def State.segmentQueued (s : State) (c : CoreId) (x : CtxId) (q : BitVec 6) : Option Task :=
  match s.tasks.filter fun t => t.qdie == dieOf c && t.queue == q && t.st == .ready && t.loc.isNone && t.tr.cls2 == 0
      && (s.queueAt t.qdie q).timed && (s.coreAt c).fits x t with
  | [] => none
  | t :: rest => some (rest.foldl (fun a b => if b.age < a.age then b else a) t)

/-- R331: the segment starts: its PARKED task goes on once READY, or a task enters, or the slot stays idle. -/
def State.startSegment (s : State) (c : CoreId) (g : Segment) : State :=
  match (s.ctxAt c g.ctx).occ with
  | .parked =>
    match s.taskOf c g.ctx with
    | some t => if t.st = .ready then (s.resumeCtx c g.ctx t.id).segmentLives c else s
    | none => s
  | .free =>
    if g.fromQueue then
      match s.segmentQueued c g.ctx g.queue with
      | some t => s.segmentEnter c g.ctx t
      | none => s
    else s.segmentFixed c g
  | .running => s

def execSegmentStart (c : CoreId) (s : State) : Out :=
  .next (if s.segmentDue c then
      match (s.coreAt c).order.bind RunOrder.seg with
      | some g =>
        let cyc := (s.coreAt c).cycle
        (s.modOrder c fun o =>
          { o with started := true, live := false, trapped := false, startNs := 0
                   slotStart := if o.startNs = 0 then o.slotStart else cyc }).startSegment c g
      | none => s
    else s)

/-- R332: the segment's task has run COST + SLACK cycles. A confirmed commit is not rolled back, so that the trap waits for its
step 5 (R380, log 23) and for the strongly-ordered accesses of its bundle (R43). -/
def State.timingDue (s : State) (c : CoreId) : Bool :=
  let k := s.coreAt c
  match k.order with
  | some o =>
    match o.seg with
    | some g => o.started && o.live && !o.trapped && decide (o.slotStart + g.cost + g.slack ≤ k.cycle)
      && (k.ctxAt g.ctx).cm.phase != .merge && (k.ctxAt g.ctx).cm.phase != .ordered
    | none => false
  | none => false

/-- R332: the timing trap, a trapped rollback whose TVAL holds the cycles since the segment's start. -/
def execTimingTrap (c : CoreId) (s : State) : Out :=
  .next (if s.timingDue c then
      match (s.coreAt c).order with
      | some o =>
        match o.seg with
        | some g =>
          (s.modOrder c fun o => { o with trapped := true }).trapRollback c g.ctx .timing 0
            (BitVec.ofNat 64 ((s.coreAt c).cycle - o.slotStart))
        | none => s
      | none => s
    else s)

/-- R332: the slot of the current segment is over. -/
def State.slotOver (s : State) (c : CoreId) : Bool :=
  let k := s.coreAt c
  match k.order with
  | some o =>
    match o.seg with
    | some g => o.started && decide (o.slotStart + g.len ≤ k.cycle)
    | none => false
  | none => false

/-- R331, R332: at the end of a slot a task that still runs is rolled back and enters FAILED; the next segment starts
on time. -/
def execSegmentSlotEnd (c : CoreId) (s : State) : Out :=
  .next (if s.slotOver c then
      match (s.coreAt c).order.bind RunOrder.seg, (s.coreAt c).order with
      | some g, some o =>
        let s := if o.live then s.abandonCtx c g.ctx else s
        s.modOrder c fun o =>
          { o with cur := (o.cur + 1) % o.segs.length, slotStart := o.slotStart + g.len, started := false, live := false
                   trapped := false }
      | _, _ => s
    else s)

/-- R243: the timed-output unit drives the first entry whose time has come. -/
def execTimedOutputFire (s : State) : Out := .next s.toutFire

/-- R329, R26: the context that may issue on a timed core. -/
def Core.segmentCtx (k : Core) : Option CtxId :=
  match k.order with
  | some o => if o.started && o.live then o.seg.map (·.ctx) else none
  | none => none

end Sys2Proof.Machine
end

