-- ==== Sys2Proof/Machine/Rings.lean ====
section
/-! DEFINITION. Machine/Rings.lean: the command rings as Wyane works on them (R337 to R341). -/

namespace Sys2Proof.Machine

/-- What a command gives: its STATUS, its RESULT where the spec states one, what it waits for before it completes, and the state
it leaves (R339, R340). -/
structure CmdOut where
  status : Nat
  result : Option Word
  job : Option CmdJob
  state : State

/-- R340: a command that is done. -/
def cmdDone (s : State) : CmdOut := ⟨0, none, none, s⟩

/-- R341: a command that is done and states its RESULT. -/
def cmdGives (w : Word) (s : State) : CmdOut := ⟨0, some w, none, s⟩

/-- R339: a command that completes once it has nothing to wait for. -/
def cmdWaits (j : CmdJob) (s : State) : CmdOut := ⟨0, none, some j, s⟩

/-- R340: a command with a nonzero STATUS has no effect; which codes RESULT then holds is not stated (log 9). -/
def cmdFail (s : State) (status : Nat) : CmdOut := ⟨status, none, none, s⟩

/-- R337: entries of a ring. -/
def Ring.entries (r : Ring) : Nat := 2 ^ r.size.toNat

/-- R276, R288: a write of Wyane, line by line: regions that recorded a touched byte take the memory-model exception, and the
bytes are in memory at once (log 12). -/
def State.outsideWrite (s : State) (a : Nat) (bs : List Byte) : State :=
  let pas := (List.range bs.length).map (a + ·)
  (distinct (pas.map lineOf)).foldl (fun s l =>
    let line := (List.range 64).map fun i => if a ≤ l * 64 + i then bs.getD (l * 64 + i - a) 0 else 0
    s.homePerform l (.write (maskOf l pas) (BitVec.ofNat 512 (leVal line)))) s

/-- R339: the 16 bytes of a completion entry. -/
def completion (tag : BitVec 16) (status : Nat) (phase : Bool) (result : Word) : List Byte :=
  leBytes 8 (tag.toNat + 2 ^ 16 * status + 2 ^ 24 * boolNat phase) ++ leBytes 8 result.toNat

/-- The RESULT of a completion: free where the spec states none (log 9). -/
def State.resultWord (s : State) (result : Option Word) : Word × State :=
  match result with
  | some w => (w, s)
  | none => s.freshWord

/-- R339: posts a completion; the vector of the ring is raised after it. A ring that is being disabled has no started entry any
more, and its BUSY falls (R337). -/
def State.complete (s : State) (cmd : Cmd) (status : Nat) (result : Option Word) : State :=
  let (result, s) := s.resultWord result
  let r := s.ringAt cmd.ring
  let a := r.base.toNat + 64 * r.entries + 16 * r.cqTail
  let s := s.outsideWrite a (completion cmd.tag status r.phase result)
  let last := r.cqTail + 1 = r.entries
  let s := s.modRing cmd.ring fun r =>
    { r with cqTail := if last then 0 else r.cqTail + 1, phase := if last then !r.phase else r.phase, busy := r.enable }
  s.raiseMsix cmd.ring.toNat

/-- The first 8 bytes of the entry at the head of a ring. -/
def State.headWord (s : State) (n : BitVec 2) : Nat :=
  let r := s.ringAt n
  cellNat s.mem (r.base.toNat + 64 * r.head) 8

/-- Bytes 8 and 9 of that entry, where its parameters begin (R339). -/
def State.headParam (s : State) (n : BitVec 2) : Nat :=
  let r := s.ringAt n
  cellNat s.mem (r.base.toNat + 64 * r.head + 8) 2

/-- R337, R338, R339: Wyane could take an entry of the ring. -/
def State.ringWaits (s : State) (n : BitVec 2) : Bool :=
  let r := s.ringAt n
  s.dev.funcReady.getLsbD 31 && r.enable && r.head != r.tail && !s.ringStarted n

/-- R339: Wyane serves the four rings round-robin: no ring before this one, from the next to be served on, has an entry. -/
def State.ringTurn (s : State) (n : BitVec 2) : Bool :=
  ([0, 1, 2, 3] : List (BitVec 2)).all fun m =>
    decide ((n - s.dev.nextRing).toNat ≤ (m - s.dev.nextRing).toNat) || !s.ringWaits m

/-- R337, R338, R339: the entry at the head of the ring is this command, and Wyane can take it. -/
def State.canTake (s : State) (cmd : Cmd) (op : Nat) : Bool :=
  s.ringWaits cmd.ring && s.ringTurn cmd.ring
    && bits (s.headWord cmd.ring) 7 0 == op && bits (s.headWord cmd.ring) 31 16 == cmd.tag.toNat

/-- R339: Wyane takes the entry at the head of the ring, and serves the next ring after it. -/
def State.takeEntry (s : State) (cmd : Cmd) : State :=
  (s.modRing cmd.ring fun r => { r with head := (r.head + 1) % r.entries }).modDev fun d => { d with nextRing := cmd.ring + 1 }

/-! ### Commands that wait (R45, R263, R266, R339) -/

/-- R45: every context of a core is FREE. -/
def Core.allFree (k : Core) : Bool := k.ctxs.all fun v => v.occ == .free

/-- R266: a core of the die runs. -/
def State.dieRuns (s : State) (d : Bool) : Bool :=
  allCores.any fun c => dieOf c == d && (s.coreAt c).ctxs.any fun v => v.occ == .running

/-- R263: the accesses under old entries have completed. -/
def State.usersDone (s : State) (u : OldUsers) : Bool :=
  (u.regions.all fun r =>
    let v := s.ctxAt r.1 r.2.1
    v.region != r.2.2 || (!v.opened && v.cm.phase == .idle && v.infl.isNone))
    && (u.ops.all fun w => !s.coh.homeOps.contains w)
    && u.msgs.all fun m => !s.dev.unacked.any fun w => w.dst == m.1 && w.seq == m.2

/-- What a started command waits for has come. A way of class 0 is used by every core, so a change from or to it waits for all
of them (R266). -/
def State.jobReady (s : State) : CmdJob → Bool
  | .coreClass cs _ => cs.all fun c => (s.coreAt c).allFree
  | .wayLock d _ _ => !s.dieRuns d
  | .drain u => s.usersDone u
  | .wings c => (s.coreAt c).wings

/-- R351: the supply of a die with a timed core is 550 mV or above. -/
def State.holdVdd (s : State) (d : Bool) : State := s.modDie d fun v => { v with vddMv := max v.vddMv 550 }

/-- R45: cores change their class. -/
def State.setClass (s : State) (cs : List CoreId) (timed : Bool) : State :=
  cs.foldl (fun s c =>
    let s := s.modCore c fun k => { k with timed := timed, order := if timed then k.order else none }
    if timed then s.holdVdd (dieOf c) else s) s

/-- R266: ways of a die change their class: each one whose class changes is written back and invalidated before. -/
def State.setWays (s : State) (d : Bool) (ways : List (Nat × Nat)) (cls : BitVec 4) : State :=
  let v := s.dieAt d
  let gone := (v.l2.filter fun p => ways.contains (sliceNo p.1, p.2) && v.wayClass (sliceNo p.1) p.2 != cls).map (·.1)
  (gone.foldl (fun s l => s.evictL2 d l) s).modDie d fun v => { v with
    ways := (v.ways.filter fun e => !ways.contains e.1) ++ (if cls = 0 then [] else ways.map fun k => (k, cls)) }

/-- What the command does once it need not wait any more. Accesses under old entries may have left untracked copies of the old
leaves' lines after the command removed them (R260). -/
def State.jobDo (s : State) : CmdJob → State
  | .coreClass cs t => s.setClass cs t
  | .wayLock d ws k => s.setWays d ws k
  | .drain u => s.dropUntrackedAll fun line => u.lines.any fun l => decide (l.1 ≤ line) && decide (line < l.1 + l.2)
  | .wings _ => s

/-- R339: a command completes, or holds its ring while it waits. -/
def State.startJob (s : State) (cmd : Cmd) (j : CmdJob) : State :=
  if s.jobReady j then (s.jobDo j).complete cmd 0 none
  else s.modDev fun d => { d with started := d.started ++ [⟨cmd, j⟩] }

/-- R339: a started command has nothing to wait for any more. -/
def State.jobDue (s : State) : Option StartedCmd := s.dev.started.find? fun j => s.jobReady j.job

/-- R339: a started command completes. -/
def State.finishJob (s : State) (j : StartedCmd) : State :=
  ((s.modDev fun d => { d with started := eraseFirst (fun k => k == j) d.started }).jobDo j.job).complete j.cmd 0 none

/-- Every started command that has nothing to wait for completes. -/
def State.finishJobs (s : State) : State := s.dev.started.foldl (fun s j => if s.jobReady j.job then s.finishJob j else s) s

/-- R339, R340: a command is taken; an entry whose zero fields are not zero is malformed. -/
def State.runCmd (s : State) (cmd : Cmd) (op : Nat) (k : State → CmdOut) : State :=
  if !s.canTake cmd op then s
  else
    let w := s.headWord cmd.ring
    let s := s.takeEntry cmd
    let o := if bits w 15 8 = 0 ∧ bits w 63 32 = 0 then k s else cmdFail s 1
    if o.status ≠ 0 then s.complete cmd o.status none
    else
      match o.job with
      | none => o.state.complete cmd 0 o.result
      | some j => o.state.startJob cmd j

/-- R341: the opcodes of the commands. -/
def commandOps : List Nat :=
  [0x01, 0x02, 0x10, 0x11, 0x18, 0x19, 0x1A, 0x20, 0x21, 0x22, 0x28, 0x29, 0x2A, 0x2B, 0x30, 0x38, 0x39, 0x3A, 0x40, 0x41, 0x48
  , 0x49, 0x50]

/-- An entry with an opcode that R341 does not list, whose turn it is (log 41). -/
def State.strayRing (s : State) : Option (BitVec 2) :=
  ([0, 1, 2, 3] : List (BitVec 2)).find? fun n =>
    s.ringWaits n && s.ringTurn n && !commandOps.contains (bits (s.headWord n) 7 0)

/-- R340: an entry with an unlisted opcode completes as malformed (log 41). -/
def State.dropStray (s : State) (n : BitVec 2) : State :=
  let cmd : Cmd := ⟨n, BitVec.ofNat 16 (bits (s.headWord n) 31 16)⟩
  (s.takeEntry cmd).complete cmd 1 none

end Sys2Proof.Machine
end

