-- ==== Sys2Proof/Machine/Scan.lean ====
section
/-! DEFINITION. Machine/Scan.lean: the in-field scan and the retirement of a core (R246, R375 to R377, R413 to R422,
R448). -/

namespace Sys2Proof.Machine

/-! ### SCAN (R246, R418) -/

/-- R246, R264, R415: the L1D of a core is written back to the die's L2 and invalidated. -/
def State.flushL1d (s : State) (c : CoreId) : State := (s.coreAt c).l1d.foldl (fun s l => s.evictL1d c l) s

/-- R246: every slab, sidecar and spill store outside context x is zero, with valid parity. -/
def Core.scanClear (k : Core) (x : CtxId) : Core :=
  let slab (q : Nat) : Bool := decide (k.partBase x ≤ q) && decide (q < k.partBase x + k.partSlabs x)
  { k with
    df := k.df.filter fun e => slab (e.1 / 2048)
    side := k.side.filter fun e => slab (e.1 / 128)
    badWords := k.badWords.filter fun w => slab (w / 512)
    ctxs := Vector.ofFn fun i => if i.val = x.toNat then k.ctxs[i.val] else { k.ctxs[i.val] with spill := [] } }

/-- The tasks of a die that are READY. -/
def State.readyTasks (s : State) (d : Bool) : List Task := s.tasks.filter fun t => t.st == .ready && s.servedBy t.qdie == d

/-- R246, R418: the scan starts. -/
def State.startScan (s : State) : State :=
  let c := s.cur.core
  let run : ScanRun := ⟨s.cur.ctx, s.timeNs, (s.readyTasks (dieOf c)).map (·.id)⟩
  let s := s.modCore c fun k =>
    { k.scanClear s.cur.ctx with scanRun := some run, scanStart := BitVec.ofNat 64 s.timeNs }
  s.flushL1d c

/-- R417: SCAN_STAT.LAST. -/
def Core.scanLast (k : Core) : Nat := bits k.scanStat.toNat 1 0

/-- R246: SCAN: alone on its core, it starts the scan, waits for its end and gives its outcome. -/
def execScan (d : SReg) (s : State) : Out :=
  .next (s.isolatedOp (s.check
    (allCtxs.all fun y => y == s.cur.ctx || (s.myCore.ctxAt y).occ == .free) .illegalOperand
    (s.commitPoint (.scan d) fun s =>
      if (s.me.infl.map (·.arrived)).getD false then s.regWrite d (BitVec.ofNat 64 s.myCore.scanLast) 1
      else if s.myCore.scanRun.isSome then s.block
      else s.startScan.block)))

/-- R418: the scan of a core ends with SCAN_STAT as given; the waiting SCAN can return. -/
def State.endScan (s : State) (c : CoreId) (x : CtxId) (stat : Word) : State :=
  (s.modCore c fun k => { k with scanRun := none, scanStat := stat }).modCtx c x fun v =>
    { v with infl := v.infl.map fun f => { f with arrived := true } }

/-- R418: a task that aborts the scan of core c: READY with priority at or above ABORTPRIO, and not READY when the
scan started. -/
def State.abortDue (s : State) (c : CoreId) : Bool :=
  let k := s.coreAt c
  match k.scanRun with
  | some r =>
    k.scanCtl.getLsbD 16 && (s.readyTasks (dieOf c)).any fun t =>
      decide (s.prioOf t ≤ bits k.scanCtl.toNat 13 8) && !r.readyAtStart.contains t.id
  | none => false

/-- R418: the scan of a core aborts, if a task that became READY asks for it. -/
def State.abortScan (s : State) (c : CoreId) : State :=
  match (s.coreAt c).scanRun with
  | some r =>
    if s.abortDue c then
      let st := (s.coreAt c).scanStat
      s.endScan c r.ctx (putBits (putBits st 1 0 2) 15 8 (min 255 (bits st.toNat 15 8 + 1)))
    else s
  | none => s

def execScanAbort (c : CoreId) (s : State) : Out := .next (s.abortScan c)

/-- R418: a scan that a task which became READY aborts before any time passes. In the last 2 µs of a scan the abort may also stay
out. -/
def State.abortNow (s : State) (c : CoreId) : Bool :=
  s.abortDue c && (s.coreAt c).scanRun.any fun r => decide (s.timeNs < r.startNs + 198000)

/-- R418: every such scan aborts. -/
def State.abortScans (s : State) : State := (allCores.filter s.abortNow).foldl State.abortScan s

/-- R418, R448: after 200 µs the scan completes with the signature it measured. -/
def execScanComplete (c : CoreId) (signature : Word) (s : State) : Out :=
  .next (match (s.coreAt c).scanRun with
    | some r =>
      if r.startNs + 200000 ≤ s.timeNs then
        let s := s.modCore c fun k => { k with scanSigm := signature }
        s.endScan c r.ctx (BitVec.ofNat 64 ((if signature = (s.coreAt c).scanSigx then 0 else 1) + 200 * 2 ^ 32))
      else s
    | none => s)

/-! ### The scan task (R419, R420) -/

/-- R420: the routine scan of a core falls due: at its first idle gap, and then after each INTERVAL. -/
def State.routineDue (s : State) (c : CoreId) : Bool :=
  let d := s.dieAt (dieOf c)
  let k := s.coreAt c
  k.ready && !k.wings && d.policy.interval != 0 &&
    (match assoc d.lastScan (pcoreOf c) with
     | some t => decide (t + 1000000000 * d.policy.interval.toNat ≤ s.timeNs)
     | none => true)

def execScanDue (c : CoreId) (s : State) : Out :=
  .next (if s.routineDue c && !(s.dieAt (dieOf c)).scanDue.contains (pcoreOf c) then
      s.modDie (dieOf c) fun d => { d with scanDue := d.scanDue ++ [pcoreOf c] }
    else s)

/-- R448: the signatures that Wyane holds for stepping 0x01. -/
def scanSignatures : Vector Word 16 :=
  #v[0x3C5A0E91D2074B6F, 0x91E427B05AC31D88, 0x0F6DB352E91874A1, 0xC27A59E608B4F31D
   , 0x5B03E8C771AF260E, 0xA8F14D2C9E650B37, 0x6E29B70A3D84C5F2, 0xD4701F9BC62E8A53
   , 0x17C86A35F0D94E2B, 0xE35B924F0A71D6C4, 0x48AED1067B3C952F, 0xB9167CE325F80DA6
   , 0x2D8405BA8E47F193, 0xF06FC829D31A5B70, 0x7A3DE6541BC0892E, 0x84C23F7D69E5A014]

/-- The text of the scan task in Wyane's ROM (spec/22_programs_overlay_and_scan.md, R443). -/
def scanText : List Byte :=
  ([0x03000000, 0x02414308, 0x02418410, 0x01000000, 0x00B18614, 0x01000000, 0x00B18604, 0x80000000, 0x02118800
  , 0x80000000, 0x02108804, 0x80008000, 0x0301C000, 0x80000000, 0x00B00700] : List Nat).flatMap (leBytes 4)

/-- R419: an idle gap of a core: its contexts are FREE, and no READY task has it as its only eligible core with a
FREE context. -/
def State.idleGap (s : State) (c : CoreId) : Bool :=
  let d := dieOf c
  (allCtxs.all fun x => (s.ctxAt c x).occ == .free)
    && !(s.tasks.any fun t => s.waitsOn d t
      && ((s.coreOrder d).filter fun k => s.eligible d t k && (s.freeFor k t).isSome) == [c])

/-- R375, R419, R420: a scan of the core is due and can start now; INTERVAL 0 disables routine scans. -/
def State.scanReady (s : State) (c : CoreId) : Bool :=
  let k := s.coreAt c
  k.ready && !k.wings && !k.timed && k.retiring.isNone && k.scanTask.isNone && !k.gapUsed
    && (k.suspect || ((s.dieAt (dieOf c)).policy.interval != 0 && (s.dieAt (dieOf c)).scanDue.contains (pcoreOf c))) && s.idleGap c

/-- R420: suspect cores first, then the lowest logical core. -/
def State.scanFirst (s : State) (c : CoreId) : Bool :=
  let key (k : CoreId) : Nat := (s.logicalOf k).getD 64 + (if (s.coreAt k).suspect then 0 else 128)
  allCores.all fun k => dieOf k != dieOf c || k == c || !s.scanReady k || decide (key c < key k)

/-- R419, R420: s1 to s4 of the scan task. -/
def State.scanArgs (s : State) (c : CoreId) : Vector Word 8 :=
  let k := s.coreAt c
  let p := (s.dieAt (dieOf c)).policy
  let pset : BitVec 4 := if k.suspect then p.pset + k.scanPos else p.pset
  let abort := !(k.suspect && decide (p.maxAbort.toNat ≤ bits k.scanStat.toNat 15 8))
  #v[pset.setWidth 64, scanSignatures[pset.toNat]'pset.isLt, p.abortPrio.setWidth 64, BitVec.ofNat 64 (boolNat abort)
   , 0, 0, 0, 0]

/-- R419: the stage manager places the scan task in context 0 and a free half. -/
def execScanTaskPlacement (c : CoreId) (s : State) : Out :=
  .next (if s.dieReady (dieOf c) && s.scanReady c && s.scanFirst c then
      let (a, s) := s.takeAge
      let r : TaskRec := { TaskRec.reset with args := s.scanArgs c }
      let t : Task := { newTask s.nextTask (dieOf c) 0 r a with scan := some c, st := .ready, charged := true }
      let s := { s with tasks := s.tasks ++ [t], nextTask := t.id + 1 }
      let s := s.modCore c fun k =>
        { k with scanTask := some t.id, gapUsed := true, scanPos := if k.suspect then k.scanPos + 1 else k.scanPos
                 scratch := cellWrite k.scratch 0 scanText, resid := k.resid.set 0 none }
      s.enterTask c 0 t false true
    else s)

/-! ### Retirement (R415, R416, R422) -/

/-- R415: the core starts to leave service. -/
def State.startRetiring (s : State) (c : CoreId) : State :=
  let s := s.modCore c fun k => { k with retiring := some ⟨s.timeNs, false, 0⟩ }
  allCtxs.foldl (fun s x => s.sendPreempt c x) s

/-- R415: parameter bytes 8 and 9 of the entry at the head of a ring name the die and the logical core. -/
def State.retireNamed (s : State) (cmd : Cmd) (die : Bool) (lcore : BitVec 6) : Bool :=
  let w := s.headParam cmd.ring
  bits w 5 0 == lcore.toNat && bitAt w 6 == die

/-- CORE_RETIRE, with the parameters of its entry: the core leaves service; the command completes when it has entered the wings. -/
def execCoreRetire (cmd : Cmd) (die : Bool) (lcore : BitVec 6) (s : State) : Out :=
  .next (if !s.retireNamed cmd die lcore then s else s.runCmd cmd 0x38 fun s =>
    match s.physicalOf die lcore with
    | none => cmdFail s 4
    | some c =>
      if !(s.coreAt c).ready then cmdFail s 4
      else if (s.coreAt c).timed then cmdFail s 5
      else cmdWaits (.wings c) (if (s.coreAt c).retiring.isSome then s else s.startRetiring c))

/-- R415 steps 3 to 5: a task that has parked on a retiring core: saved, or started again elsewhere, or left to run
on. -/
def State.retirePark (s : State) (c : CoreId) (x : CtxId) : State :=
  let k := s.coreAt c
  if k.staysIn x || (k.ctxAt x).occ != .parked || k.fillsOf x then s
  else
    match s.coreSave c x with
    | (true, s) => s
    | (false, s) =>
      if (s.taskOf c x).any fun t => t.tr.restarts then
        match s.taskOf c x with
        | some t => (s.freeCtx c x).restartTask t.id
        | none => s
      else s.modCore c fun k => { k with retiring := k.retiring.map fun r => { r with kept := r.kept ||| (1 : BitVec 4) <<< x.toNat } }

/-- R415 step 5: a task that is still in the core 100 ms after the command enters FAILED. -/
def execRetireTimeout (c : CoreId) (s : State) : Out :=
  .next (match (s.coreAt c).retiring with
    | some r =>
      if r.startNs + 100000000 ≤ s.timeNs then
        allCtxs.foldl (fun s x => if (s.ctxAt c x).task.isSome then s.abandonCtx c x else s) s
      else s
    | none => s)

/-- R376: four retirements of a die within 1 s. -/
def Die.fourRetired (d : Die) (now : Nat) : Bool :=
  decide (4 ≤ (d.retireTimes.filter fun t => decide (now < t + 1000000000)).length)

/-- R422: some core of the die is still present. -/
def State.anyPresent (s : State) (d : Bool) : Bool := (List.range 64).any fun i => (s.physicalOf d (BitVec.ofNat 6 i)).isSome

/-- R414, R415: the core is in the wings. -/
def State.toWings (s : State) (c : CoreId) : State :=
  let d := dieOf c
  let l := (s.logicalOf c).getD 0
  let s := (s.flushL1d c).modCore c fun k =>
    { k with wings := true, ready := false, retiring := none, rclass := .opn, timed := false, order := none }
  let s := s.modDie d fun v =>
    { v with lcmap := v.lcmap.setIfInBounds l (v.lcmap[l]! ||| 0x80), routes := v.routes.filter fun r => r.1 != c
             scanDue := v.scanDue.filter fun p => p != pcoreOf c, retireTimes := v.retireTimes ++ [s.timeNs] }
  { s with log := { s.log with retired := satInc s.log.retired } }

/-- R415, R422: the entry of SRC 0x22. -/
def wingsEntry (c : CoreId) (k : Core) (scanned : Bool) : LogEntry :=
  let e := coreEntry 0x22 2 c 0 0 0
  if scanned then { e with addr := k.scanSigm, synd := (k.scanSigm ^^^ k.scanSigx).extractLsb' 0 16 } else e

/-- R414 to R416: the four contexts of a retiring core are FREE: the core moves to the wings, and its command
completes. -/
def State.retiredNow (s : State) (c : CoreId) : Bool :=
  (s.coreAt c).retiring.isSome && allCtxs.all fun x => (s.ctxAt c x).occ == .free

end Sys2Proof.Machine
end

