-- ==== Sys2Proof/Machine/Tokens.lean ====
section
/-! DEFINITION. Machine/Tokens.lean: the messages of token coherence, the home of a line, the persistent arbiter,
token recreation and the scrub (R294 to R309, R402 to R406, R427). -/

namespace Sys2Proof.Machine

/-! ### RD, RDX, UPG, CNV (R300 to R303) -/

/-- R301: what the slice of the requester's die does with a request: it serves it, or adds its own tokens and passes
it on to the home. -/
def State.sliceTake (s : State) (r : Req) (held : Nat) : State :=
  let d := dieOf (rqCore r.rq)
  let l := s.lineAt r.line
  let h := l.sliceHold d
  if (s.activeOf r.line).isSome then s.sendMsg (reqMsg r held .home)
  else if l.sliceServes d r.kind then
    let s := s.fillL2 d r.line l.lclass
    match r.kind with
    | .rd => (s.keepSlice d r.line { h with count := h.count - 1 }).sendTok r.line r.rq { Hold.single with valid := true } true none
    | k => (s.keepSlice d r.line Hold.none).sendTok r.line r.rq h (asksData k) none
  else ((s.keepSlice d r.line Hold.none).sendTok r.line r.rq h (asksData r.kind) none).sendMsg (reqMsg r held .home)

/-- R301, R302: a request reaches a stop; each one that reaches the home is charged (R329). -/
def State.reqAt (s : State) (r : Req) (held : Nat) (at_ : Stop) : State :=
  match at_ with
  | .slice => if rqIsCore r.rq then s.sliceTake r held else s.homeTake r
  | .home =>
    let s := if rqIsCore r.rq then s.debit (rqCore r.rq) (rqCtx r.rq) 0 0 40 else s
    s.homeTake r

def execRd (r : Req) (at_ : Stop) (s : State) : Out := .next (s.reqAt { r with kind := .rd } 0 at_)

def execRdx (r : Req) (at_ : Stop) (s : State) : Out := .next (s.reqAt { r with kind := .rdx } 0 at_)

def execUpg (r : Req) (held : Nat) (at_ : Stop) (s : State) : Out := .next (s.reqAt { r with kind := .upg } held at_)

/-- R303: from CNV on the home serves the request as RDX; where the UPG is still to come (R300), the home remembers it. -/
def execCnv (line : Nat) (rq : Rq) (s : State) : Out :=
  .next (s.modLine line fun l =>
    let f (r : Req) : Req := if r.rq == rq then { r with kind := .rdx } else r
    let here := (l.serving.toList ++ l.waiting).any fun r => r.rq == rq
    { l with serving := l.serving.map f, waiting := l.waiting.map f
             cnv := if here || (s.outOf rq line).isNone || l.cnv.contains rq then l.cnv else l.cnv ++ [rq] })

/-! ### FWD and PACT at a holder (R304, R308) -/

/-- R304: what a cache gives, and what it keeps; all it has under a PACT (R308). -/
def cacheGives (all : Bool) (k : ReqKind) (h : Hold) : Hold × Hold :=
  if all || k != .rd then (h, Hold.none)
  else if 2 ≤ h.count then ({ Hold.single with valid := h.valid }, { h with count := h.count - 1 })
  else if h.count = 1 ∧ h.owner then (h, Hold.none)
  else (Hold.none, h)

/-- R303: an UPG of the core that lost its last token of the line is converted with CNV. -/
def State.lostCopy (s : State) (c : CoreId) (line : Nat) : State :=
  if (s.lineAt line).coreTokens c ≠ 0 then s
  else
    (s.coh.outs.filter fun o => rqIsCore o.req.rq && rqCore o.req.rq == c && o.req.line == line
      && o.req.kind == .upg).foldl (fun s o =>
        (s.modOut o.req.rq line fun o => { o with req := { o.req with kind := .rdx } }).sendMsg (.cnv line o.req.rq)) s

/-- The contexts of a core with a record of a line. -/
def State.recorders (s : State) (c : CoreId) (line : Nat) : List CtxId :=
  allCtxs.filter fun y => (assoc (s.ctxAt c y).recs line).isSome

/-- R304: a record that a request touches; with CMT = 0 every record counts. -/
def State.touches (s : State) (c : CoreId) (line : Nat) (r : Req) (y : CtxId) : Bool :=
  !r.cmt || ((assoc (s.ctxAt c y).recs line).getD 0 &&& r.mask) != 0

/-- R304, R308, R404: a context whose touched record keeps its token and answers CFL: an unconfirmed committer, but under a PACT one
whose own persistent request is later, or can only be (log 25), and any requester with an earlier activation; none for a
recreation. -/
def State.keepsToken (s : State) (c : CoreId) (act : Option Nat) (r : Req) (y : CtxId) : Bool :=
  let committer := r.cmt && (s.ctxAt c y).cm.phase == .gather
  r.rq.toNat != 514 && (match act with
    | some n => s.activeBefore (rqOf c y) n || (committer && !s.laterActive (rqOf c y) r.line)
    | none => committer)

/-- R304: the region access table entry of core c answers RDX or UPG. -/
def State.entryAnswer (s : State) (c : CoreId) (r : Req) (hit rest : List CtxId) : State :=
  let l := s.lineAt r.line
  let holds := l.ratHolds c
  let give (s : State) (lender : Option CoreId) : State := if holds then s.sendTok r.line r.rq Hold.single false lender else s
  let back (s : State) : State := hit.foldl (fun s y => s.raceRollback c y) s
  if !l.rats.contains c then back s
  else if rest.isEmpty then
    back (give (s.setLine r.line { l with rats := l.rats.erase c, lent := l.lent.erase c, port := l.port.erase c }) none)
  else if holds then give ((back s).modLine r.line fun l => { l with lent := l.lent ++ [c] }) (some c)
  else back s

/-- R304, R308: the L1D of a core answers, with what the core has gathered; lent tokens stay owed to their lenders. -/
def State.l1dAnswer (s : State) (c : CoreId) (r : Req) (all : Bool) : State :=
  let l := s.lineAt r.line
  let data := l.coreData c
  let (give, keep) := cacheGives all r.kind (l.l1dHold c)
  let s := if l.l1dHold c = Hold.none then s
    else (s.keepL1d c r.line keep).sendTok r.line r.rq { give with valid := data } (asksData r.kind) none
  let g := l.gathOf c
  let own : Hold := { g.hold with count := g.hold.count - g.lent.length }
  if g.hold.count = 0 || (r.kind == .rd && !all && give.count != 0) then s
  else if all || r.kind != .rd then
    ((s.modLine r.line fun l => l.setGath c ⟨Hold.none, []⟩).lendOn r.line r.rq g.lent).sendTok r.line r.rq
      { own with valid := data } (asksData r.kind) none
  else
    let (give, keep) := cacheGives false .rd own
    (s.modLine r.line fun l => l.setGath c { g with hold := { keep with count := keep.count + g.lent.length } }).sendTok r.line r.rq
      { give with valid := data } true none

/-- R304, R308: a core answers a request: with CFL where some context keeps the token, else from its caches and its
entry. -/
def State.coreAnswer (s : State) (c : CoreId) (r : Req) (act : Option Nat) : State :=
  let after (s : State) : State := (s.lostCopy c r.line).lastToken c r.line
  if r.kind == .rd then after (s.l1dAnswer c r act.isSome)
  else
    let recs := s.recorders c r.line
    let hit := recs.filter (s.touches c r.line r)
    let keep := hit.filter (s.keepsToken c act r)
    match keep with
    | y :: _ =>
      ((hit.filter fun z => !keep.contains z).foldl (fun s z => s.raceRollback c z) s).sendMsg (.cfl r.line ⟨rqOf c y, r.rq⟩)
    | [] => after ((s.l1dAnswer c r act.isSome).entryAnswer c r hit (recs.filter fun z => !hit.contains z))

/-- R304: a slice answers. -/
def State.sliceAnswer (s : State) (d : Bool) (r : Req) (all : Bool) : State :=
  let (give, keep) := cacheGives all r.kind ((s.lineAt r.line).sliceHold d)
  (s.keepSlice d r.line keep).sendTok r.line r.rq give (asksData r.kind) none

/-- The core holds the owner token of the line. -/
def LineSt.ownerAt (l : LineSt) (c : CoreId) : Bool := (l.l1dHold c).owner || (l.gathOf c).hold.owner

/-- R302: FWD of FORWARD, which the owner-token holder alone answers. -/
def State.forwarding (s : State) (r : Req) : Bool := (s.lineAt r.line).st == .forward && r.kind == .rd

/-- R302, R304: a slice answers a FWD and passes it on to the cores of its die that hold tokens or an entry of the line. -/
def State.sliceForward (s : State) (d : Bool) (r : Req) : State :=
  let l := s.lineAt r.line
  let cores := (l.coresBut r.rq).filter fun c => dieOf c == d
  if s.forwarding r then
    if (l.sliceHold d).owner then s.sliceAnswer d r false
    else (cores.filter l.ownerAt).foldl (fun s c => s.sendMsg (.fwd r (.l1d c))) s
  else cores.foldl (fun s c => s.sendMsg (.fwd r (.l1d c))) (s.sliceAnswer d r false)

/-- R303, R308: a forwarded request; a line with an active persistent request sends its tokens elsewhere. -/
def execFwd (r : Req) (dst : Holder) (s : State) : Out :=
  .next (if (s.activeOf r.line).isSome then s
    else
      match dst with
      | .l1d c =>
        if s.sealedLine c r.line then s.modCoh fun h => { h with deferred := h.deferred ++ [(c, .fwd r dst)] }
        else if s.forwarding r && !(s.lineAt r.line).ownerAt c then s
        else s.coreAnswer c r none
      | .slice d => s.sliceForward d r
      | .home => s)

/-! ### TOK (R300, R303) -/

/-- The tokens of a TOK message. -/
def tokHold (m : TokMsg) : Hold := ⟨m.count, m.owner, m.dirty, m.data⟩

/-- R252, R264, R295: tokens and data that a read brought, beyond its entry's token: in the L1D for a scalar access, with the
core's port and the slice of the die for an engine's, at the home for a line that no cache holds. -/
def State.readPlace (s : State) (c : CoreId) (use : ReadUse) (line : Nat) (h : Hold) (data : Bool) : State :=
  if use == .scalar && !(s.lineAt line).nc then
    (s.fillL1d c line).modLine line fun l => l.setL1d c ((l.l1dHold c).plus h)
  else
    let s := if data then s.modLine line fun l => { l with port := if l.port.contains c then l.port else l.port ++ [c] } else s
    s.placeTokens c line h

/-- R298, R300: tokens reach a context that reads: one goes to the core's entry, where the context has it pinned, and the
request ends once its data has come too. An entry holds no owner token, so a lone one leaves the request open. -/
def State.readArrives (s : State) (c : CoreId) (x : CtxId) (o : OutReq) (m : TokMsg) : State :=
  let l := s.lineAt m.line
  if o.use == .fetch then
    let s := if l.nc then s.sendHome m.line (tokHold m)
      else s.orActive c m.line (tokHold m) fun s => s.toSlice (dieOf c) m.line (tokHold m)
    if m.data then s.endRequest o else s
  else
    let held := l.rats.contains c
    let pin : Option Hold := if held then none else (tokHold m).spare
    let s := match pin with
      | some h => (s.setLine m.line { l with rats := l.rats ++ [c] }).readPlace c o.use m.line h m.data
      | none => s.readPlace c o.use m.line (tokHold m) m.data
    if !held && pin.isNone then s
    else
      let s := s.modCtx c x fun v => { v with recs := addRec v.recs m.line 0 }
      if m.data then s.endRequest o else s

/-- R308, R309: tokens that reach a core whose request is over: they are placed, and a lent one goes to the winner or home
(log 38). -/
def State.strayTokens (s : State) (c : CoreId) (m : TokMsg) : State :=
  match m.lender with
  | none => s.placeTokens c m.line (tokHold m)
  | some d =>
    match s.activeOf m.line with
    | some a =>
      if (s.outOf a.req.rq m.line).isSome then s.sendTok m.line a.req.rq (tokHold m) false (some d)
      else (s.forgiveLent m.line [d]).sendHome m.line (tokHold m)
    | none => (s.forgiveLent m.line [d]).sendHome m.line (tokHold m)

/-- R300, R308: tokens reach a core. Those of a line with an active persistent request of another core go on to it. -/
def State.coreReceives (s : State) (m : TokMsg) : State :=
  let c := rqCore m.rq
  let x := rqCtx m.rq
  let away : Option Req := (s.activeOf m.line).bind fun a =>
    if rqIsCore a.req.rq && rqCore a.req.rq == c then none else some a.req
  match away, (s.outOf m.rq m.line).filter fun o => o.use != .untracked with
  | some r, _ => s.sendTok m.line r.rq (tokHold m) (asksData r.kind) m.lender
  | none, none => s.strayTokens c m
  | none, some o =>
    if o.req.kind == .rd then s.readArrives c x o m
    else (s.toGath c m.line (tokHold m) m.lender).tryCommit c x

/-- R299, R404: tokens reach the home for a requester whose tokens stay there. -/
def State.homeReceives (s : State) (m : TokMsg) : State :=
  (s.modLine m.line fun l => { l.setHome (l.home.plus (tokHold m)) with homeLent := l.homeLent ++ m.lender.toList }).homeSettle m.line

def execTok (m : TokMsg) (s : State) : Out :=
  .next (if s.goesHome m.rq m.line then s.homeReceives m else s.coreReceives m)

/-! ### CFL, conversion, DONE, RTN (R303, R305, R306) -/

/-- R306: a request is converted: DONE to the home and PREQ to the arbiter. -/
def State.convert (s : State) (rq : Rq) (line : Nat) : State :=
  match s.outOf rq line with
  | some o =>
    if o.converted then s
    else
      ((s.modOut rq line fun o => { o with converted := true }).sendMsg (.done line rq)).sendMsg (.preq o.req)
  | none => s

/-- R306: a commit or atomic converts every line that is not complete; an operation of the home converts its own. -/
def State.convertAll (s : State) (rq : Rq) (line : Nat) : State :=
  (s.coh.outs.filter fun o => o.req.rq == rq && o.req.cmt && (o.use != .home || o.req.line == line)).foldl (fun s o =>
    if o.use != .home && (s.lineAt o.req.line).coreTokens (rqCore rq) = Config.tokens then s else s.convert rq o.req.line) s

/-- R304, R306: CFL reaches a requester; a commit or atomic converts. -/
def execCfl (line : Nat) (m : Conflict) (s : State) : Out :=
  .next (match s.outOf m.dst line with
    | some o => if o.req.cmt then s.convertAll m.dst line else s
    | none => s)

/-- R277, R305, R308: a lent token returns to the core that lent it, whose entry answers an active request again. -/
def execRtn (line : Nat) (c : CoreId) (s : State) : Out :=
  .next (let l := s.lineAt line
    if l.rats.contains c && l.lent.contains c then
      let s := s.setLine line { l with lent := l.lent.erase c }
      match s.activeOf line with
      | some a =>
        if (s.outOf a.req.rq line).isNone || (rqIsCore a.req.rq && rqCore a.req.rq == c) then s
        else if s.sealedLine c line then
          s.modCoh fun h => { h with deferred := h.deferred ++ [(c, .pact a.req a.act (.l1d c))] }
        else s.coreAnswer c a.req (some a.act)
      | none => s
    else s.placeTokens c line Hold.single)

/-- R302, R303: DONE: the home leaves GATHER or FORWARD. Its hint names the die of a requester when every token has gone
there (log 39). -/
def execDone (line : Nat) (rq : Rq) (s : State) : Out :=
  .next (let l := s.lineAt line
    let mine := (l.serving.map fun r => r.rq == rq).getD false && l.st != .persist
    let d := dieOf (rqCore rq)
    let l := { l with waiting := l.waiting.filter (fun r => r.rq != rq || s.stillAsked r), cnv := l.cnv.erase rq }
    if mine then
      let s := s.setLine line { l with st := .idle, serving := none }
      let s := if rqIsCore rq && l.home.count = 0 && !l.onDie (!d) then s.modHint line fun _ => Hint.only d else s
      (s.homeNext line).homeSettle line
    else s.setLine line l)

/-! ### WB (R302, R303) -/

/-- R302: what the home passes on of tokens that came to it, and what it keeps. -/
def homeGives (k : ReqKind) (h : Hold) : Hold × Hold :=
  if k = .rd ∧ 2 ≤ h.count then ({ Hold.single with valid := h.owner }, { h with count := h.count - 1 })
  else ({ h with valid := h.owner }, Hold.none)

/-- R302, R303, R308: tokens written back: to the active requester in full, to the request being served up to its need,
and the rest stays at the home, with memory's copy current when the owner token has come. The dirty bit goes with an owner token
that is passed on (R296, R365), and what stays is clean. -/
def State.wbArrive (s : State) (line : Nat) (h : Hold) : State :=
  let s := s.modLine line fun l => { l.setHome (l.home.plus h) with stale := if h.owner then none else l.stale }
  let s := if h.owner then s.modHint line fun t => { t with owner := none } else s
  let home := (s.lineAt line).home
  let clean (s : State) : State := s.modLine line fun l => { l with home := { l.home with dirty := false } }
  match s.activeOf line, (s.lineAt line).serving with
  | some a, _ =>
    if s.goesHome a.req.rq line then (clean s).homeSettle line
    else s.homeSends line a.req.rq home Hold.none (asksData a.req.kind)
  | none, some r =>
    if s.goesHome r.rq line then (clean s).homeSettle line
    else if !s.stillAsked r then clean s
    else clean (s.homeSends line r.rq (homeGives r.kind home).1 (homeGives r.kind home).2 (asksData r.kind))
  | none, none => clean s

def execWb (line : Nat) (count : Nat) (owner dirty : Bool) (s : State) : Out :=
  .next (let s := s.wbArrive line ⟨count, owner, dirty, owner⟩
    if (s.activeOf line).isSome then s
    else (s.modLine line fun l => { l with wbPend := true }).sendMsg (.wbWritePosted line))

/-- R302: WBPEND ends. -/
def execWbWritePosted (line : Nat) (s : State) : Out :=
  .next (((s.modLine line fun l => { l with wbPend := false }).homeNext line).homeSettle line)

/-! ### The arbiter (R306 to R308) -/

/-- R308: a committer whose persistent request comes behind another core's for a line of which it has a touched record can only be
activated later, and rolls back (DEDUCED, log 25). -/
def State.yieldWaiting (s : State) (r : Req) : State :=
  match if rqIsCore r.rq then s.activeOf r.line else none with
  | some a =>
    let c := rqCore r.rq
    let x := rqCtx r.rq
    if a.req.rq != r.rq && a.req.rq.toNat != 514 && !(rqIsCore a.req.rq && rqCore a.req.rq == c)
        && (s.ctxAt c x).cm.phase == .gather && (assoc (s.ctxAt c x).recs r.line).isSome && s.touches c r.line a.req x
        && !s.activeBefore r.rq a.act then s.raceRollback c x
    else s
  | none => s

def execPreq (r : Req) (s : State) : Out := .next ((s.persistAsk r).yieldWaiting r)

/-- R302: the home takes up the active request: it sends every token it holds; the request it was serving waits. -/
def State.homePersist (s : State) (r : Req) : State :=
  let l := s.lineAt r.line
  let back := match l.serving with
    | some q => if s.stillAsked q then [q] else []
    | none => []
  let s := (s.dirTouch r.line).setLine r.line { l with st := .persist, serving := none, waiting := back ++ l.waiting }
  if s.goesHome r.rq r.line then s.homeSettle r.line
  else s.homeSends r.line r.rq l.home Hold.none (asksData r.kind)

/-- R308: a requester that has become active later than a request whose line it has a touched record of rolls back. -/
def State.yieldToEarlier (s : State) (r : Req) (act : Nat) : State :=
  if !rqIsCore r.rq then s
  else
    let c := rqCore r.rq
    let x := rqCtx r.rq
    if s.coh.arb.active.any fun a => decide (a.act < act) && !(rqIsCore a.req.rq && rqCore a.req.rq == c)
        && (assoc (s.ctxAt c x).recs a.req.line).isSome && s.touches c a.req.line a.req x
        && !s.activeBefore r.rq a.act then s.raceRollback c x
    else s

/-- R304, R308: PACT at a holder: its tokens go to the active requester, those of a confirmed committer after its step 5. -/
def execPact (r : Req) (act : Nat) (dst : Holder) (s : State) : Out :=
  .next (match s.activeOf r.line with
    | some a =>
      if a.act ≠ act then s
      else
        match dst with
        | .l1d c =>
          if s.sealedLine c r.line then s.modCoh fun h => { h with deferred := h.deferred ++ [(c, .pact r act dst)] }
          else s.coreAnswer c r (some act)
        | .slice d => s.sliceAnswer d r true
        | .home => (s.homePersist r).yieldToEarlier r act
    | none => s)

/-- R307: PDONE: the activation ends, or the request is withdrawn; PREL goes to the holders and the home. -/
def execPdone (line : Nat) (rq : Rq) (s : State) : Out :=
  .next (let was := s.coh.arb.active.find? fun a => a.req.line == line && a.req.rq == rq
    let s := s.modCoh fun h => { h with arb := { h.arb with
      active := h.arb.active.filter fun a => !(a.req.line == line && a.req.rq == rq) } }
    let s := s.unwait fun r => r.line == line && r.rq == rq
    (match was with
     | some a => s.sendPrel a
     | none => s).activateAll)

/-- R302, R307: PREL: the home leaves PERSIST; a holder sends the line's tokens to nobody any more. -/
def execPrel (m : Release) (s : State) : Out :=
  .next (if m.dst = .home then
      ((s.modLine m.line fun l => if l.st = .persist then { l with st := .idle } else l).homeNext m.line).homeSettle m.line
    else s)

/-- Core cycles at the nominal clock in nanoseconds, rounded up (R8). -/
def cyclesNs (n : Nat) : Nat := ceilDiv (n * 10) 17

/-- R306: a commit or an atomic of a core has the line that it asked for. -/
def State.lineComplete (s : State) (o : OutReq) : Bool :=
  o.req.cmt && o.use != .home && (s.lineAt o.req.line).coreTokens (rqCore o.req.rq) == Config.tokens

/-- R306: a request has waited longer than its gather bound and 200 cycles; a line that is complete is not converted. -/
def State.conversionDue (s : State) (o : OutReq) : Bool :=
  !o.converted && o.req.rq.toNat != 514 && o.use != .untracked && !s.lineComplete o &&
    (if o.use == .home then decide (o.since + cyclesNs (o.bound + 200) ≤ s.timeNs)
     else decide (o.since + o.bound + 200 ≤ (s.coreAt (rqCore o.req.rq)).cycle))

def execPersistentConversion (line : Nat) (rq : Rq) (s : State) : Out :=
  .next (match s.outOf rq line with
    | some o => if s.conversionDue o then s.convert rq line else s
    | none => s)

/-! ### Recreation and poison (R402 to R405, R427) -/

/-- R402: the line is poisoned, and the entry is logged. -/
def State.poisonLine (s : State) (line : Nat) : State :=
  if s.coh.poison.contains line then s
  else
    (s.modCoh fun h => { h with poison := h.poison ++ [line] }).logEvent
      (stageEntry 0x27 2 (BitVec.ofNat 64 (line * 64)))

/-- A message that carries tokens of a line. -/
def carries (line : Nat) : Instr → Bool
  | .tok m => m.line == line
  | .wb l _ _ _ => l == line
  | .rtn l _ => l == line
  | _ => false

/-- R404, R405, R427: step 4 of a recreation. A line whose owner token did not return has memory's copy, and is poisoned after a
failover or where the check bits of that copy fail. The operations that waited for its tokens go on. -/
def State.recreate (s : State) (line : Nat) (bad : Bool) : State :=
  let l := s.lineAt line
  let lost := !l.home.owner && (bad || (s.dieAt false).failed || (s.dieAt true).failed)
  let s := match (if l.home.owner then none else l.stale) with
    | some old => { s with mem := mergeLine s.mem line (BitVec.allOnes 64) old }
    | none => s
  let s := s.setLine line { l with
    home := LineSt.reset.home, l1d := [], slices := [], gath := [], rats := [], lent := [], homeLent := [], port := [], stale := none }
  let was := s.activeOf line
  let s := s.modCoh fun h => { h with
    net := h.net.filter fun m => !carries line m
    arb := { h.arb with active := h.arb.active.filter fun a => a.req.line != line } }
  let s := s.logEvent (stageEntry 0x28 2 (BitVec.ofNat 64 (line * 64)))
  let s := if lost then s.poisonLine line else s
  let s := (l.l1d.map (·.1)).foldl (fun s c => s.tidyL1d c line) s
  let s := (s.tidyL2 false line).tidyL2 true line
  ((match was with
    | some a => s.sendPrel a
    | none => s).activateAll).homeSettle line

/-- R404: 3,200 cycles after its activation the recreation completes. -/
def execTokenRecreationComplete (m : Recreated) (s : State) : Out :=
  .next (match s.activeOf m.line with
    | some a => if a.req.rq.toNat = 514 ∧ a.sinceNs + cyclesNs 3200 ≤ s.timeNs then s.recreate m.line m.bad else s
    | none => s)

/-- R402, R404: the scrub writes corrected data back and poisons a line that it finds uncorrectable; a metadata word that is
uncorrectable calls for the recreation of the line's tokens. -/
def execPatrolScrub (line : Nat) (find : ScrubFind) (s : State) : Out :=
  .next (match find with
    | .clean => s
    | .data => s.poisonLine line
    | .word => if s.recreating line then s else s.askRecreation line)

/-- R427: the background sweep reaches a line. -/
def execFailoverTokenSweep (line : Nat) (s : State) : Out :=
  .next (if s.needsSweep line then s.askRecreation line else s)

end Sys2Proof.Machine
end

