-- ==== Sys2Proof/Machine/Failover.lean ====
section
/-! DEFINITION. Machine/Failover.lean: die-level events, failover to the understudy, the thermal readings and the end
of a retirement (R351, R376 to R378, R414 to R416, R422 to R427). -/

namespace Sys2Proof.Machine

/-! ### The loss of a die (R376, R424 to R427) -/

/-- A requester on die d. -/
def rqOnDie (d : Bool) (rq : Rq) : Bool := rqIsCore rq && dieOf (rqCore rq) == d

/-- A holder on die d. -/
def holderOnDie (d : Bool) : Holder → Bool
  | .l1d c => dieOf c == d
  | .slice e => e == d
  | .home => false

/-- R424: a message from or to the lost die, which is discarded. -/
def lostMessage (d : Bool) : Instr → Bool
  | .rd r _ => rqOnDie d r.rq
  | .rdx r _ => rqOnDie d r.rq
  | .upg r _ _ => rqOnDie d r.rq
  | .cnv _ q => rqOnDie d q
  | .fwd r h => rqOnDie d r.rq || holderOnDie d h
  | .tok m => rqOnDie d m.rq
  | .cfl _ m => rqOnDie d m.rq || rqOnDie d m.dst
  | .rtn _ c => dieOf c == d
  | .done _ q => rqOnDie d q
  | .preq r => rqOnDie d r.rq
  | .pact r _ h => rqOnDie d r.rq || holderOnDie d h
  | .pdone _ q => rqOnDie d q
  | .prel m => holderOnDie d m.dst
  | _ => false

/-- R427: a line after the loss of die d: the tokens held there are lost, its requests are gone. -/
def LineSt.loseDie (d : Bool) (l : LineSt) : LineSt :=
  let mine := (l.serving.map fun r => rqOnDie d r.rq).getD false
  { l with
    l1d := l.l1d.filter fun p => dieOf p.1 != d
    slices := l.slices.filter fun p => p.1 != d
    gath := (l.gath.filter fun p => dieOf p.1 != d).map fun p => (p.1, { p.2 with lent := p.2.lent.filter fun c => dieOf c != d })
    rats := l.rats.filter fun c => dieOf c != d
    lent := l.lent.filter fun c => dieOf c != d
    homeLent := l.homeLent.filter fun c => dieOf c != d
    port := l.port.filter fun c => dieOf c != d
    st := if mine && l.st != .persist then .idle else l.st
    serving := if mine then none else l.serving
    waiting := l.waiting.filter fun r => !rqOnDie d r.rq }

/-- R424, R427: the tokens, messages and requests of the lost die; its persistent requests are withdrawn. -/
def State.loseTokens (s : State) (d : Bool) : State :=
  let gone := s.coh.arb.active.filter fun a => rqOnDie d a.req.rq
  let lines := s.coh.lines.map (·.1)
  let s := s.modCoh fun h => { h with
    lines := h.lines.map fun p => (p.1, p.2.loseDie d)
    net := h.net.filter fun m => !lostMessage d m
    deferred := h.deferred.filter fun p => dieOf p.1 != d
    outs := h.outs.filter fun o => !rqOnDie d o.req.rq
    homeOps := h.homeOps.filter fun o => !rqOnDie d o.rq
    arb := ({ h.arb with
      active := h.arb.active.filter fun a => !rqOnDie d a.req.rq
      waiting := h.arb.waiting.filter fun r => !rqOnDie d r.rq } : Arbiter).tidyPtr
    ut := h.ut.filter fun u => u.die != d
    epochChecked := [] }
  let s := s.modDie d fun v => { v with l2 := [], dtlb := [], layouts := [], walks := [] }
  let s := gone.foldl (fun s a => s.sendPrel a) s
  lines.foldl (fun s l => (s.homeNext l).homeSettle l) s.activateAll

/-- A started command that is for the die. -/
def CmdJob.forDie (d : Bool) : CmdJob → Bool
  | .coreClass cs _ => cs.any fun c => dieOf c == d
  | .wayLock e _ _ => e == d
  | .drain _ => false
  | .wings c => dieOf c == d

/-- R378: a retirement that the loss of its die overtakes: one that comes from a failing scan is logged and counts. -/
def State.abortRetirement (s : State) (c : CoreId) (r : Retiring) : State :=
  let k := s.coreAt c
  let s := s.modCore c fun k => { k with retiring := none }
  if !r.scanned then s
  else (s.logEvent (wingsEntry c k r.scanned)).modDie (dieOf c) fun v => { v with retireTimes := v.retireTimes ++ [s.timeNs] }

/-- R376, R424: host commands in flight for the die complete with STATUS 6. -/
def State.abortCommands (s : State) (d : Bool) : State :=
  let gone := s.dev.started.filter fun j => j.job.forDie d
  let s := s.modDev fun v => { v with started := v.started.filter fun j => !j.job.forDie d }
  let s := gone.foldl (fun s j => s.complete j.cmd 6 none) s
  allCores.foldl (fun s c =>
    match if dieOf c = d then (s.coreAt c).retiring else none with
    | some r => s.abortRetirement c r
    | none => s) s

/-- A core of a lost die: nothing of it works any more; open regions are discarded whole (R426). -/
def Core.lost (k : Core) : Core :=
  { k with ready := false, ctxs := k.ctxs.map Ctx.freed, matQ := [], tileQ := [], sfuQ := [], reports := [], order := none
           scanRun := none, scanTask := none, retiring := none, debits := [], resid := Vector.replicate 2 none
           l1d := [], teCache := [], teFetch := [], tlb := [] }

/-- R338, R424: the DIE bit and every CORE_READY bit of the die fall. -/
def State.loseCores (s : State) (d : Bool) : State :=
  let s := s.modDev fun v => { v with funcReady := v.funcReady &&& ~~~((1 : Word) <<< (24 + boolNat d)) }
  { s with cores := Vector.ofFn fun i => if dieOf (BitVec.ofNat 7 i.val) == d then (s.cores[i.val]).lost else s.cores[i.val] }

/-- A task held in a context of the die. -/
def Task.inDie (t : Task) (d : Bool) : Bool :=
  match t.loc with
  | some (c, _) => dieOf c == d
  | none => false

/-- The owner token of the line is on die d, or on its way to or from there. -/
def State.ownerOn (s : State) (d : Bool) (line : Nat) : Bool :=
  let l := s.lineAt line
  (l.l1d.any fun p => dieOf p.1 == d && p.2.owner) || (l.slices.any fun p => p.1 == d && p.2.owner)
    || (l.gath.any fun p => dieOf p.1 == d && p.2.hold.owner)
    || s.coh.net.any fun m => lostMessage d m && match m with
      | .tok m => m.line == line && m.owner
      | _ => false

/-- R425, R427: a task whose save area is gone with die d: a line of it is poisoned, or will be for want of its owner token. -/
def State.areaLost (s : State) (d : Bool) (t : Task) : Bool :=
  match t.saved with
  | some (base, n) =>
    match s.areaOf base.toNat n false with
    | .ok pas => (s.areaPoison base.toNat pas).isSome || pas.any fun pa => s.ownerOn d (lineOf pa)
    | .error _ => true
  | none => false

/-- R425: the tasks that the loss of die d takes. -/
def State.tasksLost (s : State) (d : Bool) : List Task :=
  s.tasks.filter fun t => t.inDie d || (t.qdie == d && s.areaLost d t)

/-- R425, R322: a task of a lost die that starts again rejoins its casts on entry, from the next phase; the open phase awaits it no
more. -/
def State.loseTasks (s : State) (hit : List Task) : State :=
  let s := hit.foldl (fun s t =>
    if t.tr.restarts then
      ((s.restartTask t.id).leaveCasts t.id).modTask t.id fun t => { t with charged := false }
    else s) s
  s.failTasks s.failFuel ((hit.filter fun t => !t.tr.restarts).map (·.id))

/-- R423 to R427: failover of die d to the other die, as far as t0 + 10 µs. -/
def State.failover (s : State) (d : Bool) : State :=
  let s := s.abortCommands d
  let hit := s.tasksLost d
  let s := ((s.loseCores d).modDie d fun v => { v with failed := true }).loseTokens d
  (s.loseTasks hit).logEvent (dieEntry 0x23 3 d)

/-- R376, R423: the die stops: every task of it enters FAILED. -/
def State.stopDie (s : State) (d : Bool) : State :=
  let s := s.abortCommands d
  let s := ((s.loseCores d).modDie d fun v => { v with failed := true }).loseTokens d
  let s := s.failTasks s.failFuel ((s.tasks.filter fun t => s.servedBy t.qdie == d || t.inDie d).map (·.id))
  (s.modDie d fun v => { v with failed := true, stopped := true }).logEvent (dieEntry 0x23 3 d)

/-- R350, R376, R423: a die-level event; a die whose supply is lost before it is ready does not become ready. -/
def State.dieLevel (s : State) (d : Bool) (cause : DieCause) : State :=
  let s := if cause = .supply then s.modDie d fun v => { v with supplied := false } else s
  if !s.dieFitted d || !s.dieReady d then s
  else if !s.hasFailover && cause == .retirements then s.logEvent (dieEntry 0x2F 3 d)
  else if s.hasFailover && s.dieFitted (!d) && s.dieReady (!d) && (s.dieAt d).failAllow then s.failover d
  else s.stopDie d

def execDieLevelEvent (die : Bool) (cause : DieCause) (s : State) : Out := .next (s.dieLevel die cause)

/-- R406: the request of an activation that has timed out is withdrawn, and its requester's with it. -/
def State.withdrawActive (s : State) (a : ActiveReq) : State :=
  let line := a.req.line
  let s := s.modCoh fun h => { h with arb := { h.arb with active := h.arb.active.filter fun b => b.req.line != line } }
  let s := (s.dropOut a.req.rq line).sendPrel a
  (if rqIsCore a.req.rq then
    s.modCtx (rqCore a.req.rq) (rqCtx a.req.rq) fun v => { v with guardLines := v.guardLines.erase line }
  else s).activateAll

/-- R406: an activation that has lasted 8,000 cycles is logged. Over a lost stage link of the requester's die, or of one that holds
tokens of the line, it is a die-level event, and the request is withdrawn; otherwise the home recreates the line's tokens, and
the request is activated again ahead of every waiting one. -/
def execPersistentTimeout (m : Timeout) (s : State) : Out :=
  .next (match s.activeOf m.line with
    | some a =>
      if a.req.rq.toNat ≠ 514 ∧ a.sinceNs + cyclesNs 8000 ≤ s.timeNs then
        let s := s.logEvent (stageEntry 0x29 3 (BitVec.ofNat 64 (m.line * 64)))
        match m.lost.filter fun d => rqOnDie d a.req.rq || (s.lineAt m.line).onDie d with
        | some d => (s.withdrawActive a).dieLevel d .stageLink
        | none =>
          let s := s.modCoh fun h => { h with arb := { h.arb with
            active := h.arb.active.filter fun b => b.req.line != m.line
            waiting := a.req :: h.arb.waiting, ptr := assocPut h.arb.ptr m.line a.req.rq.toNat } }
          s.askRecreation m.line
      else s
    | none => s)

/-- R424: the understudy has adopted the queues, waiter lists and records of the lost die. -/
def execFailoverAdoption (die : Bool) (s : State) : Out :=
  .next (if (s.dieAt die).failed && !(s.dieAt die).stopped && !(s.dieAt die).adopted && s.dieReady (!die) then
      (s.modDie die fun v => { v with adopted := true }).logEvent (dieEntry 0x24 3 die)
    else s)

/-! ### Thermal readings (R337, R351) -/

/-- R351: some core of the die is in the timed class. -/
def State.anyTimed (s : State) (d : Bool) : Bool := allCores.any fun c => dieOf c == d && (s.coreAt c).timed

/-- R337: TEMP: the hottest junction and its die. -/
def State.tempReg (s : State) : Word :=
  let a := (s.dieAt false).celsius
  let b := (s.dieAt true).celsius
  if s.dieFitted true && decide (a.toInt < b.toInt) then BitVec.ofNat 64 (b.toNat + 256) else BitVec.ofNat 64 a.toNat

/-- R351: at 115 °C the clock of the throughput cores falls by one step down to 1.4 GHz, and where no timed core runs the supply
with it down to 500 mV, by amounts that are not fixed; where one runs the supply is 550 mV or above (log 26). -/
def State.coolDown (s : State) (d : Bool) : State :=
  let (f, s) := s.freshWord
  let s := s.modDie d fun v => { v with clockMhz := 1400 + f.toNat % max 1 (v.clockMhz - 1400) }
  if s.anyTimed d then s.holdVdd d
  else
    let (w, s) := s.freshWord
    s.modDie d fun v => { v with vddMv := 500 + w.toNat % (v.vddMv - 500 + 1) }

def execThermalReading (die : Bool) (celsius : Byte) (s : State) : Out :=
  .next (let s := s.modDie die fun v => { v with celsius := celsius, stopPlacing := decide (122 ≤ celsius.toInt) }
    let s := s.modDev fun v => { v with temp := s.tempReg }
    let s := if 115 ≤ celsius.toInt then s.coolDown die else s
    if 125 ≤ celsius.toInt then s.dieLevel die .junction else s)

/-! ### The end of a retirement (R376, R414 to R416, R422) -/

def execCoreEnterWings (c : CoreId) (s : State) : Out :=
  .next (if !s.retiredNow c then s
    else
      match (s.coreAt c).retiring with
      | none => s
      | some r =>
        let k := s.coreAt c
        let s := ((s.toWings c).logEvent (wingsEntry c k r.scanned)).finishJobs
        let d := dieOf c
        if !s.anyPresent d then s.dieLevel d .noCore
        else if (s.dieAt d).fourRetired s.timeNs then s.dieLevel d .retirements
        else s)

end Sys2Proof.Machine
end

