-- ==== Sys2Proof/Machine/Time.lean ====
section
/-! DEFINITION. Machine/Time.lean: the IEEE 1588 time of the stage die: how it passes, is set, slewed, lost and found
again (R347, R348, R410 to R412). -/

namespace Sys2Proof.Machine

/-! ### Time that passes -/

/-- R347, R412: 1,000 ppm of u units that pass from a count on. -/
def ppmOf (count u : Nat) : Nat := (count + u) / 1000 - count / 1000

/-- R347, R412: the units TIME gains while u units of real time pass, and the lead left: TIME runs slow while it
leads, fast while it lags, by 1,000 ppm. -/
def slewGain (count u : Nat) : Option Int → Nat × Option Int
  | none => (u, none)
  | some lead =>
    if 0 < lead then
      let d := min lead.toNat (ppmOf count u)
      (u - d, some (lead - d))
    else
      let d := min (-lead).toNat (ppmOf count u)
      (u + d, some (lead + d))

/-- R327, R347: u units of real time pass; every whole microsecond that TIME reaches refills the buckets. -/
def State.advanceTime (s : State) (u : Nat) : State :=
  let n := s.dev.tb.units
  let (gain, lead) := slewGain n u s.dev.tb.slewTo
  let per := Config.unitsPerNs * 1000
  let s := s.modDev fun d => { d with tb := { d.tb with units := n + gain, slewTo := lead } }
  let k := (n + gain) / per - n / per
  if k = 0 then s else s.refillBuckets k

/-! ### Setting and slewing (R347, R412) -/

/-- R412: timed-output entries that a forward step skips are driven late. -/
def State.skipOutputs (s : State) (ns : Nat) : State :=
  let late := s.dev.toEnts.filter fun e => decide (e.time.toNat < ns)
  s.modDev fun d => { d with
    toEnts := d.toEnts.filter fun e => !decide (e.time.toNat < ns)
    toLevel := late.foldl drivePins d.toLevel
    toLate := late.foldl (fun n _ => satInc32 n) d.toLate }

/-- R347, R412: TIME is stepped forward; microseconds that it skips refill no bucket (log 28). Entries that were due before it fire
in time. -/
def State.stepTime (s : State) (ns : Nat) : State :=
  (s.toutFireAll.skipOutputs ns).modDev fun d => { d with tb := { d.tb with units := ns * Config.unitsPerNs, slewTo := none } }

/-- TIME is slewed to a time given in ns. -/
def State.slewTime (s : State) (ns : Nat) : State :=
  let lead : Int := s.dev.tb.units - ns * Config.unitsPerNs
  s.modDev fun d => { d with tb := { d.tb with slewTo := if lead = 0 then none else some lead } }

/-- R347: a set value ahead steps TIME forward; one behind makes it run slow. -/
def State.setTime (s : State) (ns : Nat) : State := if s.timeNs ≤ ns then s.stepTime ns else s.slewTime ns

/-- R347: the slew has met its goal. -/
def execTimeSlewEnd (s : State) : Out :=
  .next (if s.dev.tb.slewTo = some 0 then s.modDev fun d => { d with tb := { d.tb with slewTo := none } } else s)

/-- R347: the device holds the limit of 100 ns to its master's time, or it does not. -/
def State.heldLimit (s : State) (good : Bool) : State :=
  s.modDev fun d => { d with tb := { d.tb with
    goodSince := if good then some (d.tb.goodSince.getD (d.tb.units / Config.unitsPerNs)) else none } }

/-- R347: a pulse at the master's PPS pin gives it its time. -/
def execPpsEdge (ns : Nat) (s : State) : Out := .next (if s.dev.tb.master then s.setTime ns else s)

/-! ### Lock (R338, R410 to R412) -/

def State.setReadyBit (s : State) (i : Nat) (v : Bool) : State :=
  s.modDev fun d =>
    { d with funcReady := if v then d.funcReady ||| ((1 : Word) <<< i) else d.funcReady &&& ~~~((1 : Word) <<< i) }

/-- R410: time lock is lost. -/
def State.loseLock (s : State) : State :=
  if !s.dev.tb.locked then s
  else
    ((s.setReadyBit 30 false).modDev fun d => { d with tb := { d.tb with locked := false } }).logEvent (stageEntry 0x2B 3 0)

/-- R410: the backup master takes over; its own time is the fabric's from then on. -/
def State.takeOver (s : State) : State :=
  if s.dev.tb.backup = some s.dev.devNo then
    (s.modDev fun d => { d with tb := { d.tb with master := true, goodSince := none, slewTo := none } }).heldLimit true
  else s

/-- R347, R410: a synchronisation message: TIME follows the master's, by slewing (log 45); an offset above 1 µs loses the lock. -/
def execTimeSyncMessage (masterNs : Nat) (s : State) : Out :=
  .next (if s.dev.tb.master then s
    else
      let s := s.modDev fun d => { d with tb := { d.tb with lastSyncNs := d.tb.units / Config.unitsPerNs } }
      let off := if s.timeNs ≤ masterNs then masterNs - s.timeNs else s.timeNs - masterNs
      let s := s.heldLimit (decide (off ≤ 100))
      if 1000 < off then s.loseLock else if s.dev.tb.locked then s.slewTime masterNs else s)

/-- R410: no synchronisation message for 1 s. -/
def execTimeLockLoss (s : State) : Out :=
  .next (if !s.dev.tb.master && decide (s.dev.tb.lastSyncNs + 1000000000 ≤ s.timeNs) then
      ((s.heldLimit false).loseLock).takeOver
    else s)

/-- R412: relock: TIME is stepped forward when it lags by more than 1 ms, and slewed otherwise. -/
def execTimeRelock (masterNs : Nat) (s : State) : Out :=
  .next (if s.timeNs + 1000000 < masterNs then (s.stepTime masterNs).heldLimit true else s.slewTime masterNs)

/-- R338, R347, R412: the limit of R347 has held for 1 s: TIMEBASE rises. -/
def execTimebaseReady (s : State) : Out :=
  .next (match s.dev.tb.goodSince with
    | some t =>
      if t + 1000000000 ≤ s.timeNs then
        (s.setReadyBit 30 true).modDev fun d => { d with tb := { d.tb with
          locked := true, lastSyncNs := d.tb.units / Config.unitsPerNs } }
      else s
    | none => s)

end Sys2Proof.Machine
end

