-- ==== Sys2Proof/Machine/Images.lean ====
section
/-! DEFINITION. Machine/Images.lean: Wyane's commands on images and tensors (R192, R254, R258 to R260, R341 to R343,
R447). -/

namespace Sys2Proof.Machine

/-! ### Device memory for tables (R258; log 17) -/

/-- The lowest address that Wyane takes for tables and data sections. -/
def tablesFloor : Nat := 0x2C00000000

/-- n bytes aligned to a power of two, below the tables taken so far; none when the memory is exhausted. -/
def State.takeTable (s : State) (n align : Nat) : Option (Nat × State) :=
  if s.dev.tablesTop < tablesFloor + n + align then none
  else
    let a := (s.dev.tablesTop - n) / align * align
    some (a, s.modDev fun d => { d with tablesTop := a })

/-- The map with bytes bs at a, and zero in the rest of the n bytes from there. -/
def cellFresh (m : List Host.Cell) (a n : Nat) (bs : List Byte) : List Host.Cell :=
  cellWrite (cellClear m fun x => decide (a ≤ x) && decide (x < a + n)) a bs

/-! ### Building a mapping (R192, R258, R259, R447) -/

/-- R192: the table entry of the parameters. -/
def paramsDesc (p : TensorParams) (root : Nat) : Desc :=
  BitVec.ofNat 512 (p.tid.toNat + p.rank.toNat * 2 ^ 16 + p.fmt.toNat * 2 ^ 20 + p.geom.toNat * 2 ^ 24
    + p.plane.toNat * 2 ^ 26 + p.device.toNat * 2 ^ 28 + 2 ^ 63
    + p.dims[0].toNat * 2 ^ 64 + p.dims[1].toNat * 2 ^ 96 + p.dims[2].toNat * 2 ^ 128 + p.dims[3].toNat * 2 ^ 160
    + root * 2 ^ (192 + 12))

/-- R259: the leaf of a frame. -/
def paramsLeaf (p : TensorParams) (f : BitVec 32) : Leaf :=
  { w := p.w, so := p.so, ut := p.ut, large := p.large, c := p.c, geom := p.geom.toNat, fmt := p.fmt.toNat
    plane := p.plane.toNat, lclass := p.lclass.toNat, low := 0, frame := f.toNat }

/-- Leaves that a tensor of n bytes needs. -/
def leafCount (large : Bool) (n : Nat) : Nat := ceilDiv n (if large then 2 ^ 21 else 2 ^ 16)

/-- R343: the mapping agrees with a declaration. -/
def TensorDecl.agrees (t : TensorDecl) (p : TensorParams) (own : BitVec 4) : Bool :=
  t.fmt == p.fmt && t.geom == p.geom && t.plane == p.plane && t.rank == p.rank && t.dims == p.dims
    && p.device == (if t.devSet then t.device else own)

/-- The declarations of an id in loaded images. -/
def State.declsOf (s : State) (tid : BitVec 16) : List TensorDecl :=
  s.images.flatMap fun m => m.tlist.filter fun t => t.tid == tid

/-- R447: a parameter outside its field's range: status 1. -/
def paramsBad (p : TensorParams) (own : BitVec 4) : Bool :=
  decide (12 ≤ p.fmt.toNat) || p.plane == 3
    || ((List.range 4).any fun i => p.dims[i]! == 0 || (decide (p.rank.toNat < i) && p.dims[i]! != 1))
    || (p.device == own && p.frames.length != leafCount p.large (paramsDesc p 0).size)

/-- R254, R263: the frame of a leaf holds memory that Wyane keeps for tables and data sections, which no tensor maps (log 17). -/
def Leaf.overTables (l : Leaf) : Bool :=
  decide (tablesFloor < 65536 * l.frame + (if l.large then 2 ^ 21 else 2 ^ 16)) && decide (65536 * l.frame < tensorTable + 2 ^ 22)

/-- R447: a mapping that a rule refuses: status 5. -/
def State.mapRefused (s : State) (p : TensorParams) : Bool :=
  p.tid == 0 || (s.descOf p.tid.toNat).valid || !fmtLegal p.fmt.toNat p.geom.toNat p.plane.toNat
    || decide (2 ^ 48 ≤ (paramsDesc p 0).size)
    || (p.device == s.dev.devNo && p.frames.any fun f => !s.leafOk p.large (paramsLeaf p f) || (paramsLeaf p f).overTables)
    || (s.declsOf p.tid).any fun t => !t.agrees p s.dev.devNo

/-- R263: Wyane writes a table, of which no cache keeps an older line. -/
def State.writeTable (s : State) (a n : Nat) (bs : List Byte) : State :=
  { s with mem := cellFresh s.mem a n bs }.dropTableLines a n

/-- R254, R263: the tensor table entry of an id is written, and its translations are gone from every cache. -/
def State.setDesc (s : State) (id : Nat) (d : Desc) : State :=
  (s.writeTable (descAddr id) 64 (leBytes 64 d.toNat)).flushTensor id

/-- R258: the second-level tables of 64 KiB leaves, 32 leaves each, and the first-level entries that point to them. -/
def State.secondLevel (s : State) : Nat → List Nat → Option (List Nat × State)
  | 0, _ => some ([], s)
  | n + 1, ls =>
    match s.takeTable 256 256 with
    | none => none
    | some (a, s) =>
      let s := s.writeTable a 256 ((ls.take 32).flatMap (leBytes 8))
      match s.secondLevel n (ls.drop 32) with
      | none => none
      | some (es, s) => some ((1 + a) :: es, s)

/-- R258: the tile tables of a list of leaves: the root's frame number of 4 KiB. -/
def State.buildTables (s : State) (large : Bool) (ls : List Leaf) : Option (Nat × State) :=
  let words := ls.map Leaf.toNat
  match (if large then some (words, s) else s.secondLevel (ceilDiv ls.length 32) words) with
  | none => none
  | some (es, s) =>
    match s.takeTable (8 * es.length) 4096 with
    | none => none
    | some (a, s) => some (a / 4096, s.writeTable a (8 * es.length) (es.flatMap (leBytes 8)))

/-- R254, R258: the mapping is made; none when the memory for tables is exhausted. -/
def State.mapTensor (s : State) (p : TensorParams) : Option State :=
  if p.device = s.dev.devNo then
    match s.buildTables p.large (p.frames.map (paramsLeaf p)) with
    | none => none
    | some (root, s) => some (s.setDesc p.tid.toNat (paramsDesc p root))
  else some (s.setDesc p.tid.toNat (paramsDesc p 0))

/-- TENSOR_MAP. -/
def execTensorMap (cmd : Cmd) (p : TensorParams) (s : State) : Out :=
  .next (s.runCmd cmd 0x18 fun s =>
    if paramsBad p s.dev.devNo then cmdFail s 1
    else if s.mapRefused p then cmdFail s 5
    else
      match s.mapTensor p with
      | none => cmdFail s 2
      | some s => cmdDone s)

/-! ### Leaves of a mapped tensor (R260, R263) -/

/-- The physical address of the entry of leaf i, with the leaf's size; none where the table has a hole. -/
def State.leafAt (s : State) (d : Desc) (i : Nat) : Option (Nat × Leaf) :=
  let large := bitAt (cellNat s.mem (4096 * d.root) 8) 4
  let a := if large then 4096 * d.root + 8 * i
    else bits (cellNat s.mem (4096 * d.root + 8 * (i / 32)) 8) 47 8 * 256 + 8 * (i % 32)
  let e := cellNat s.mem a 8
  if bitAt e 0 then some (a, Leaf.ofNat e) else none

/-- Number of leaves of a mapped tensor. -/
def State.leavesOf (s : State) (d : Desc) : Nat := leafCount (bitAt (cellNat s.mem (4096 * d.root) 8) 4) d.size

/-- A line of the frame of a leaf. -/
def Leaf.holds (l : Leaf) (line : Nat) : Bool :=
  let n := if l.large then 2 ^ 21 else 2 ^ 16
  decide (65536 * l.frame ≤ 64 * line) && decide (64 * line < 65536 * l.frame + n)

/-- R260: every untracked copy of the leaves' lines is removed. -/
def State.dropCopies (s : State) (ls : List Leaf) : State := s.dropUntrackedAll fun line => ls.any fun l => l.holds line

/-- R263: the context has an access under way that was translated to a key for which p holds: of its region, of the
strongly-ordered stores after its commit, of an atomic, or of a prefetch. -/
def State.usesKeys (s : State) (c : CoreId) (x : CtxId) (p : Nat → Bool) : Bool :=
  let v := s.ctxAt c x
  (v.gate.any fun e => p e.key) || (v.recs.any fun r => p (r.1 * 64)) || (v.soStores.any fun o => p o.pa)
    || ((v.infl.bind (·.key)).any fun k => p k.1)
    || (v.pend.any fun q => match q.kind with
      | .load _ _ keys _ _ => keys.any fun k => p k.1
      | _ => false)
    || (s.coreAt c).tileQ.any fun m => m.x == x && (m.todo.getD []).any fun l => p (l.1 * 64)

/-- R263: the accesses under way that were translated under the leaves of a tensor, or to it at another device. -/
def State.usersOf (s : State) (id : Nat) (ls : List Leaf) : OldUsers :=
  let mine (a : Nat) : Bool := a / 2 ^ 48 % 65536 == id
  let holds (line : Nat) : Bool := ls.any fun l => l.holds line
  let key (k : Nat) : Bool := if isRemoteKey k then mine (remoteAddr k) else holds (lineOf k)
  { regions := (allContexts.filter fun p => s.usesKeys p.1 p.2 key).map fun p => (p.1, p.2, (s.ctxAt p.1 p.2).region)
    ops := s.coh.homeOps.filter fun w => holds w.line
    msgs := (s.dev.unacked.filter fun w => w.bytes.any fun b => mine b.1).map fun w => (w.dst, w.seq)
    lines := ls.map fun l => (l.frame * 1024, if l.large then 2 ^ 15 else 2 ^ 10) }

/-- The leaves from first on. -/
def State.leafRange (s : State) (d : Desc) (first count : Nat) : List (Nat × Leaf) :=
  (List.range count).filterMap fun i => s.leafAt d (first + i)

/-- The leaves of a tensor that this device holds. -/
def State.leavesAll (s : State) (id : Nat) : List Leaf :=
  let d := s.descOf id
  if d.device = s.dev.devNo.toNat then (s.leafRange d 0 (s.leavesOf d)).map (·.2) else []

/-- R286, R341: the tensor is unmapped. -/
def State.unmapTensor (s : State) (id : Nat) : State := (s.dropCopies (s.leavesAll id)).setDesc id 0

/-- R263: the command completes once the accesses under the old entries have. -/
def State.drained (old new : State) (id : Nat) (ls : List Leaf) : CmdOut := cmdWaits (.drain (old.usersOf id ls)) new

/-- TENSOR_UNMAP; an id that is not mapped is an absent target (log 27). -/
def execTensorUnmap (cmd : Cmd) (id : BitVec 16) (s : State) : Out :=
  .next (s.runCmd cmd 0x19 fun s =>
    if (s.descOf id.toNat).valid then s.drained (s.unmapTensor id.toNat) id.toNat (s.leavesAll id.toNat) else cmdFail s 4)

/-- LEAF_SET: the new W and UT of a range of leaves; a combination that R259 does not list is refused. -/
def execLeafSet (cmd : Cmd) (id : BitVec 16) (first count : BitVec 32) (w ut : Bool) (s : State) : Out :=
  .next (s.runCmd cmd 0x1A fun s =>
    let d := s.descOf id.toNat
    if !d.valid || d.device != s.dev.devNo.toNat then cmdFail s 4
    else if s.leavesOf d < first.toNat + count.toNat then cmdFail s 1
    else
      let ls := s.leafRange d first.toNat count.toNat
      let new (l : Leaf) : Leaf := { l with w := w, ut := ut }
      if ls.any fun e => !s.leafOk e.2.large (new e.2) then cmdFail s 5
      else
        let t := ls.foldl (fun s e => s.writeTable e.1 8 (leBytes 8 (new e.2).toNat)) (s.dropCopies (ls.map (·.2)))
        s.drained (t.flushTensor id.toNat) id.toNat (ls.map (·.2)))

/-! ### Images (R342, R343) -/

/-- The little-endian field of n bytes at an offset of an image. -/
def imgField (bs : List Byte) (off n : Nat) : Nat := leVal ((bs.drop off).take n)

/-- The sections of an image: offset and length of text, data, tensor list and loop table. -/
def imgSections (bs : List Byte) : List (Nat × Nat) :=
  [ (imgField bs 0x10 4, imgField bs 0x14 4), (imgField bs 0x18 4, imgField bs 0x1C 4)
  , (imgField bs 0x20 4, 24 * imgField bs 0x24 2), (imgField bs 0x28 4, 8 * imgField bs 0x26 2) ]

/-- Two sections share no byte. -/
def apart (a b : Nat × Nat) : Bool :=
  a.2 == 0 || b.2 == 0 || decide (a.1 + a.2 ≤ b.1) || decide (b.1 + b.2 ≤ a.1)

/-- R343: sections in bounds, aligned, and apart. -/
def sectionsOk (sig : Nat) : List (Nat × Nat) → Bool
  | [] => true
  | a :: rest =>
    (a.2 == 0 || (decide (a.1 % 64 = 0) && decide (64 ≤ a.1) && decide (a.1 + a.2 ≤ sig)))
      && rest.all (apart a) && sectionsOk sig rest

/-- R343: one entry of the tensor list. -/
def declOf (bs : List Byte) : TensorDecl :=
  let k := imgField bs 2 1
  let d := imgField bs 3 1
  { tid := BitVec.ofNat 16 (imgField bs 0 2), fmt := BitVec.ofNat 4 k, geom := BitVec.ofNat 2 (k / 16)
    plane := BitVec.ofNat 2 (k / 64), device := BitVec.ofNat 4 d, rank := BitVec.ofNat 2 (d / 16), devSet := bitAt d 6
    dims := Vector.ofFn fun i => BitVec.ofNat 32 (imgField bs (8 + 4 * i.val) 4) }

/-- The bytes of the entries of a list section. -/
def imgEntries (bs : List Byte) (off size n : Nat) : List (List Byte) :=
  (List.range n).map fun i => (bs.drop (off + size * i)).take size

def tlistOf (bs : List Byte) : List (List Byte) := imgEntries bs (imgField bs 0x20 4) 24 (imgField bs 0x24 2)

def ltabOf (bs : List Byte) : List (List Byte) := imgEntries bs (imgField bs 0x28 4) 8 (imgField bs 0x26 2)

/-- R343: the image is well formed; n is the length the command gives. -/
def imageWf (bs : List Byte) (n : Nat) : Bool :=
  let text := imgField bs 0x14 4
  let sig := imgField bs 0x30 4
  decide (64 ≤ n) && imgField bs 0 4 == 0x4E4C5246 && imgField bs 4 2 == 1 && decide (imgField bs 6 2 < 2)
    && decide (imgField bs 0x0C 4 % 4 = 0) && decide (4 ≤ text) && decide (text ≤ 32768) && decide (text % 4 = 0)
    && decide (imgField bs 0x24 2 ≤ 1024) && decide (64 ≤ sig)
    && imgField bs 0x34 4 == sig + 4672 && decide (imgField bs 0x34 4 ≤ n) && imgField bs 0x39 7 == 0
    && sectionsOk sig (imgSections bs) && ((bs.drop (sig + 4627)).take 45).all (· == 0)
    && (tlistOf bs).all (fun e => imgField e 4 4 == 0 && !bitAt (imgField e 3 1) 7)
    && (ltabOf bs).all (fun e => imgField e 2 2 == 0)

/-- R21, R343: PROFILES names no version above CAP1's. -/
def profilesOk (bs : List Byte) : Bool := (List.range 4).all fun i => decide (imgField bs (8 + i) 1 ≤ bits cap1.toNat (8 * i + 7) (8 * i))

/-- R343: a declaration disagrees with a mapping that its id has. -/
def State.declRefused (s : State) (t : TensorDecl) : Bool :=
  let d := s.descOf t.tid.toNat
  d.valid && !(d.fmt == t.fmt.toNat && d.geom == t.geom.toNat && d.plane == t.plane.toNat && d.rank == t.rank.toNat
    && ((List.range 4).all fun i => d.dim i == t.dims[i]!.toNat)
    && d.device == (if t.devSet then t.device.toNat else s.dev.devNo.toNat))

/-- R341: the lowest id from 1 that no loaded image holds. -/
def State.freeImage (s : State) : Option Nat :=
  (List.range 65535).map (· + 1) |>.find? fun i => !s.images.any fun m => m.id == i

/-- R343: the highest id that no tensor maps and no tensor list declares. -/
def State.freeTensor (s : State) (ts : List TensorDecl) : Option Nat :=
  (List.range 65535).map (65535 - ·) |>.find? fun i =>
    !(s.descOf i).valid && !(ts.any fun t => t.tid.toNat == i) && (s.declsOf (BitVec.ofNat 16 i)).isEmpty

/-- R343: the data section becomes a tensor of untyped bytes, tracked, writable, relaxed and cacheable. -/
def State.placeData (s : State) (ts : List TensorDecl) (data : List Byte) : Option (Option (BitVec 16) × State) :=
  if data.isEmpty then some (none, s)
  else
    match s.freeTensor ts with
    | none => none
    | some id =>
      let n := ceilDiv data.length (2 ^ 16)
      match s.takeTable (n * 2 ^ 16) (2 ^ 16) with
      | none => none
      | some (a, s) =>
        let s := { s with mem := cellFresh s.mem a (n * 2 ^ 16) data }
        let p : TensorParams :=
          { tid := BitVec.ofNat 16 id, rank := 0, fmt := 0, geom := 0, plane := 0, device := s.dev.devNo
            dims := #v[BitVec.ofNat 32 data.length, 1, 1, 1], large := false, w := true, so := false, ut := false
            c := true, lclass := 0, frames := (List.range n).map fun i => BitVec.ofNat 32 (a / 2 ^ 16 + i) }
        (s.mapTensor p).map fun s => (some p.tid, s)

/-- R342, R345: the public key of a slot that verifies: one fused at manufacture, or one that a patch has added. -/
def State.keyOf (s : State) (slot : Nat) : Option (BitVec 20736) :=
  if s.dev.keys[slot]? ≠ some .usable then none
  else if slot < 4 then some (Config.fusedKey slot)
  else (s.dev.addedKeys.find? fun k => k.1.toNat == slot).map (·.2)

/-- R342: the ML-DSA-87 signature at an offset verifies, under the key of the slot, over the SHA3-512 digest of every byte before
it. -/
def State.signed (s : State) (slot : Nat) (bs : List Byte) (sigAt : Nat) : Bool :=
  match s.keyOf slot with
  | some key => Config.verify key (sha3 (bs.take sigAt)) (BitVec.ofNat 37016 (imgField bs sigAt 4627))
  | none => false

/-- R342: the signature of an image verifies under the key slot that it names. -/
def State.imageSigned (s : State) (bs : List Byte) : Bool := s.signed (imgField bs 0x38 1) bs (imgField bs 0x30 4)

/-- R342, R343: what IMAGE_LOAD does with the bytes of an image. -/
def State.loadImage (s : State) (bs : List Byte) (n : Nat) (dies : BitVec 2) : CmdOut :=
  if dies = 0 ∨ !imageWf bs n then cmdFail s 1
  else if (dies.getLsbD 0 && !s.dieReady false) || (dies.getLsbD 1 && !s.dieReady true) then cmdFail s 4
  else if !s.imageSigned bs then cmdFail s 3
  else
    let ts := (tlistOf bs).map declOf
    if !profilesOk bs || ts.any s.declRefused then cmdFail s 5
    else
      match s.freeImage, s.placeData ts ((bs.drop (imgField bs 0x18 4)).take (imgField bs 0x1C 4)) with
      | some id, some (tid, s) =>
        let m : Image :=
          { id := id, dies := dies, priv := bitAt (imgField bs 6 2) 0
            text := (bs.drop (imgField bs 0x10 4)).take (imgField bs 0x14 4), dataTid := tid, tlist := ts
            pb := imgField bs 0x2C 4, digest := sha3 (bs.take (imgField bs 0x30 4)) }
        cmdGives (BitVec.ofNat 64 (id + 2 ^ 16 * (tid.getD 0).toNat)) { s with images := s.images ++ [m] }
      | _, _ => cmdFail s 2

/-- IMAGE_LOAD; sigOk is what the signature check of R342 gives, and no other outcome occurs (log 16). -/
def execImageLoad (cmd : Cmd) (addr : BitVec 48) (len : BitVec 32) (dies : BitVec 2) (sigOk : Bool) (s : State) : Out :=
  let bs := cellBytes s.mem addr.toNat len.toNat
  .next (if sigOk ≠ s.imageSigned bs then s else s.runCmd cmd 0x10 fun s => s.loadImage bs len.toNat dies)

/-- IMAGE_UNLOAD: refused while a task of the image exists; its data tensor is unmapped. -/
def execImageUnload (cmd : Cmd) (id : BitVec 16) (s : State) : Out :=
  .next (s.runCmd cmd 0x11 fun s =>
    match s.images.find? fun m => m.id == id.toNat with
    | none => cmdFail s 4
    | some m =>
      if s.tasks.any fun t => t.tr.imgId == m.id then cmdFail s 5
      else
        let t := match m.dataTid with
          | some t => s.unmapTensor t.toNat
          | none => s
        let forget (k : Core) : Core := { k with resid := k.resid.map fun r => if r = some m.id then none else r }
        s.drained { t with images := t.images.filter fun n => n.id != m.id, cores := t.cores.map forget }
          ((m.dataTid.map (·.toNat)).getD 0) ((m.dataTid.map fun t => s.leavesAll t.toNat).getD []))

end Sys2Proof.Machine
end

