-- ==== Sys2Proof/Machine/Commands.lean ====
section
/-! DEFINITION. Machine/Commands.lean: Wyane's other commands (R45, R266 to R268, R313, R314, R330, R341, R344 to R348,
R387, R388, R420, R423). -/

namespace Sys2Proof.Machine

/-! ### IDENTIFY, HEALTH, ATTEST, FW_PATCH (R323, R341, R344, R345, R403; log 19) -/

/-- IDENTIFY. -/
def execIdentify (cmd : Cmd) (s : State) : Out :=
  .next (s.runCmd cmd 0x01 fun s =>
    cmdGives (BitVec.ofNat 64 (bits s.cap0.toNat 39 32 + bits s.cap0.toNat 31 24 * 2 ^ 8
      + Config.firmwareVersion.toNat * 2 ^ 16 + s.dev.fused.toNat * 2 ^ 32)) s)

/-- R323: a READY task whose AFF names no present core. -/
def State.stranded (s : State) (t : Task) : Bool :=
  t.st == .ready && t.tr.aff != 0 && s.servedBy t.qdie == t.qdie
    && (List.range 64).all fun i => !t.tr.aff.getLsbD i || (s.physicalOf t.qdie (BitVec.ofNat 6 i)).isNone

/-- R341, R403: the health report: readiness, core maps, counters, stranded tasks and poisoned lines, each list after
its length (log 19). -/
def State.healthReport (s : State) : List Byte :=
  let w (x : Word) : List Byte := leBytes 8 x.toNat
  let list (l : List Nat) : List Byte := leBytes 8 l.length ++ l.flatMap (leBytes 8)
  w s.dev.funcReady ++ w (s.coreReadyMask false) ++ w (s.coreReadyMask true)
    ++ (s.dieAt false).lcmap.toList ++ (s.dieAt true).lcmap.toList
    ++ w s.log.ce ++ w s.log.ue ++ w s.log.esc ++ w s.log.retired
    ++ list ((s.tasks.filter s.stranded).map (·.id)) ++ list (s.coh.poison.map (· * 64))

/-- HEALTH: the report goes to a buffer at a physical address. -/
def execHealth (cmd : Cmd) (buf : BitVec 48) (s : State) : Out :=
  .next (s.runCmd cmd 0x02 fun s => cmdDone (s.outsideWrite buf.toNat s.healthReport))

/-- n lines of bytes that the spec does not fix. -/
def State.freeBytes (s : State) : Nat → List Byte × State
  | 0 => ([], s)
  | n + 1 =>
    let (l, s) := s.freshLine
    let (bs, s) := s.freeBytes n
    (leBytes 64 l.toNat ++ bs, s)

/-- R344: the attestation report: the nonce, the security version, CAP0 to CAP3, then the digests of the ROM, of each
patch and of each image, and the signature of 4,627 bytes and its 45 zero bytes, whose own bytes are free (log 19). -/
def execAttest (cmd : Cmd) (nonce : BitVec 256) (report : BitVec 48) (s : State) : Out :=
  .next (s.runCmd cmd 0x48 fun s =>
    let (free, s) := s.freeBytes 73
    let digests := [Config.romDigest] ++ s.dev.patches ++ s.images.map (·.digest)
    let bs := leBytes 32 nonce.toNat ++ leBytes 8 s.dev.fused.toNat ++ leBytes 8 s.cap0.toNat ++ leBytes 8 cap1.toNat
      ++ leBytes 8 s.cap2.toNat ++ leBytes 8 cap3.toNat ++ (digests.flatMap fun d => leBytes 64 d.toNat)
      ++ free.take 4627 ++ List.replicate 45 0
    cmdGives (BitVec.ofNat 64 report.toNat) (s.outsideWrite report.toNat bs))

/-- R342, R345: the key slots after a patch: keys are added to slots 4 to 7, and slots are revoked. -/
def patchKeys (p : PatchParams) (keys : Vector KeySlot 8) : Vector KeySlot 8 :=
  Vector.ofFn fun i =>
    if p.revokes.any fun k => k.toNat == i.val then .revoked
    else if 4 ≤ i.val && p.adds.any fun k => k.1.toNat == i.val then .usable else keys[i.val]

/-- FW_PATCH: the patch at an address, signed like an image, and what it says of itself (log 16). -/
def execFwPatch (cmd : Cmd) (addr : BitVec 48) (p : PatchParams) (s : State) : Out :=
  .next (s.runCmd cmd 0x49 fun s =>
    let bs := cellBytes s.mem addr.toNat p.len.toNat
    if !s.signed p.slot.toNat bs p.sigAt then cmdFail s 3
    else if p.version.toNat < s.dev.fused.toNat then cmdFail s 5
    else
      cmdDone (s.modDev fun d => { d with
        fused := p.version, patches := d.patches ++ [sha3 bs], keys := patchKeys p d.keys
        addedKeys := p.adds ++ d.addedKeys }))

/-! ### Queues and launches (R30, R313, R314) -/

/-- R313: a bucket at the creation of its queue is full. -/
def bucketOf (a : BucketAttr) : Bucket := ⟨a.rate, a.depth, a.depth.toNat⟩

/-- R313: a queue as QUEUE_CREATE makes it; the buckets of a TIMED queue are ignored. -/
def queueOf (a : QueueAttrs) : Queue :=
  if a.timed then { Queue.reset with active := true, timed := true, prio := a.prio, cap := a.cap }
  else { Queue.reset with active := true, prio := a.prio, cap := a.cap, cyc := bucketOf a.cyc, byt := bucketOf a.byt
                          en := bucketOf a.en }

/-- QUEUE_CREATE. -/
def execQueueCreate (cmd : Cmd) (die : Bool) (q : Byte) (attrs : QueueAttrs) (s : State) : Out :=
  .next (s.runCmd cmd 0x20 fun s =>
    let n : BitVec 6 := q.extractLsb' 0 6
    if 63 < q.toNat ∨ attrs.cap = 0 ∨ 4096 < attrs.cap.toNat then cmdFail s 1
    else if !s.dieReady die then cmdFail s 4
    else if (s.queueAt die n).active then cmdFail s 5
    else cmdDone (s.modQueue die n fun _ => queueOf attrs))

/-- R341: a task that QUEUE_DESTROY fails. -/
def Task.unstarted (t : Task) : Bool := t.st == .new || t.st == .waiting || t.st == .ready

/-- QUEUE_DESTROY: tasks that are NEW, WAITING or READY enter FAILED. -/
def State.destroyQueue (s : State) (d : Bool) (q : BitVec 6) : State :=
  let ts := s.tasks.filter fun t => t.qdie == d && t.queue == q && t.unstarted && !t.timedSeg && t.scan.isNone
  let s := ts.foldl (fun s t =>
    match t.loc with
    | some (c, x) => s.freeCtx c x
    | none => s) s
  (s.failTasks s.failFuel (ts.map (·.id))).modQueue d q fun v => { v with active := false }

def execQueueDestroy (cmd : Cmd) (die : Bool) (q : Byte) (s : State) : Out :=
  .next (s.runCmd cmd 0x21 fun s =>
    let n : BitVec 6 := q.extractLsb' 0 6
    if 63 < q.toNat then cmdFail s 1
    else if !s.dieFitted die || !(s.queueAt die n).active then cmdFail s 4
    else cmdDone (s.destroyQueue die n))

/-- R30: the future table has its size from the first launch on. -/
def State.firstLaunch (s : State) : State :=
  let s := if s.fut.size.isNone then { s with fut := { s.fut with size := some 65536 } } else s
  s.modDev fun d => { d with launched := true }

/-- R315: the bytes of a record at a physical address. -/
def State.recordAt (s : State) (a : Nat) : List Byte := cellBytes s.mem a (recordLen (cellNat s.mem a 2))

/-- LAUNCH: RESULT is the append code of R314. -/
def execLaunch (cmd : Cmd) (die : Bool) (q : Byte) (addr : BitVec 48) (s : State) : Out :=
  .next (s.runCmd cmd 0x22 fun s =>
    if 63 < q.toNat then cmdFail s 1
    else
      let s := s.firstLaunch
      let r := s.append die (q.extractLsb' 0 6) (some (s.recordAt addr.toNat))
      cmdGives (BitVec.ofNat 64 r.1) r.2)

/-- FUTURE_TABLE: a power of two up to 2^22, before the first launch. -/
def execFutureTable (cmd : Cmd) (entries : Word32) (s : State) : Out :=
  .next (s.runCmd cmd 0x30 fun s =>
    if s.dev.launched then cmdFail s 5
    else if (List.range 23).any fun i => entries.toNat == 2 ^ i then
      cmdDone { s with fut := { s.fut with size := some entries.toNat } }
    else cmdFail s 1)

/-! ### Cores (R45, R267, R268, R330) -/

/-- R340: the physical core of a logical number, when it is present and ready. -/
def State.targetCore (s : State) (d : Bool) (l : BitVec 6) : Option CoreId :=
  (s.physicalOf d l).filter fun c => (s.coreAt c).ready

/-- The physical cores that a mask of logical cores names; none when one of them is absent or not ready. -/
def State.coresOf (s : State) (d : Bool) (mask : Word) : Option (List CoreId) :=
  let ls := (List.range 64).filter fun i => mask.getLsbD i
  let cs := ls.filterMap fun i => s.targetCore d (BitVec.ofNat 6 i)
  if cs.length = ls.length then some cs else none

/-- CORE_CLASS: waits until the contexts of its cores are FREE. -/
def execCoreClass (cmd : Cmd) (die : Bool) (mask : Word) (timed : Bool) (s : State) : Out :=
  .next (s.runCmd cmd 0x28 fun s =>
    match s.coresOf die mask with
    | none => cmdFail s 4
    | some cs => cmdWaits (.coreClass cs timed) s)

/-- R330: one segment of a table. -/
def segmentOf (bs : List Byte) : Segment :=
  let a := imgField bs 0 2
  { ctx := BitVec.ofNat 2 a, fromQueue := bitAt a 2, queue := BitVec.ofNat 6 (a / 8)
    image := BitVec.ofNat 16 (imgField bs 2 2), entry := BitVec.ofNat 16 (imgField bs 4 2), cost := imgField bs 8 4
    slack := imgField bs 12 4, hcost := imgField bs 16 4, args := BitVec.ofNat 64 (imgField bs 24 8) }

/-- R330: the zero fields of a segment and the range of COST. -/
def segmentWf (bs : List Byte) : Bool :=
  bits (imgField bs 0 2) 15 9 == 0 && imgField bs 6 2 == 0 && imgField bs 20 4 == 0 && imgField bs 8 4 != 0

/-- R330: IMAGE and ENTRY name a bundle of a loaded image, or QUEUE a TIMED queue of the die. -/
def State.segmentOk (s : State) (d : Bool) (g : Segment) : Bool :=
  if g.fromQueue then (s.queueAt d g.queue).active && (s.queueAt d g.queue).timed
  else
    match s.imageOn g.image.toNat d with
    | some m => decide (g.entry.toNat < m.text.length) && decide (g.entry.toNat % 4 = 0) && decide (g.entry.toNat < 32768)
    | none => false

/-- R330: what supplies the task of a segment. -/
def Segment.source (g : Segment) : Bool × Nat × Nat :=
  if g.fromQueue then (true, g.queue.toNat, 0) else (false, g.image.toNat, g.entry.toNat)

/-- R330: the images that a table's fixed segments need. -/
def orderImages (gs : List Segment) : List Nat := distinct ((gs.filter fun g => !g.fromQueue).map fun g => g.image.toNat)

/-- R330: a table that Wyane accepts. -/
def State.orderOk (s : State) (d : Bool) (head : Nat) (rows : List (List Byte)) : Bool :=
  let gs := rows.map segmentOf
  decide (1 ≤ head) && decide (head ≤ 64) && rows.all segmentWf && gs.all (s.segmentOk d)
    && (gs.all fun g => gs.all fun h => g.ctx != h.ctx || g.source == h.source)
    && decide ((gs.map Segment.len).sum < 2 ^ 32) && decide ((orderImages gs).length ≤ 2)

/-- R324, R330: the images of a running order go into the halves of the core, no one over another of them; none where they
find no room. -/
def State.loadImages (s : State) (c : CoreId) (all : List Nat) : List Nat → Option State
  | [] => some s
  | i :: rest =>
    if s.residentIn c false i || s.residentIn c true i then s.loadImages c all rest
    else
      match s.imageOn i (dieOf c), [false, true].find? fun h => s.halfFree c h && !(all.any fun j => s.residentIn c h j) with
      | some m, some h => (s.loadHalf c h m).loadImages c all rest
      | _, _ => none

/-- R263: Wyane locks the entries of up to 16 pages in a core's tile TLB, in the place of those that it had locked there. -/
def State.lockPages (s : State) (c : CoreId) (addrs : List Word) : State :=
  let new := (addrs.take 16).filterMap fun a => match s.translate a.toNat with
    | .ok _ leaf => some { TlbEnt.ofAddr a.toNat leaf.large with locked := true }
    | _ => none
  let put (t : List TlbEnt) (e : TlbEnt) : List TlbEnt := tlbPut 64 (fun _ => true) (t.filter fun f => !f.same e) e
  let open_ (t : List TlbEnt) : List TlbEnt := t.map fun e => { e with locked := false }
  s.modCore c fun k => { k with tlb := (distinct new).foldl put (open_ k.tlb) }

/-- RUNNING_ORDER: the table at a physical address, checked under R330, starts at a given time; Wyane locks the translations of
the given pages (log 43). -/
def execRunningOrder (cmd : Cmd) (c : CoreId) (table : BitVec 48) (start : OrderStart) (s : State) : Out :=
  .next (s.runCmd cmd 0x29 fun s =>
    match s.targetCore (dieOf c) (pcoreOf c) with
    | none => cmdFail s 4
    | some c =>
      let head := cellNat s.mem table.toNat 8
      let rows := (List.range (head % 65)).map fun i => cellBytes s.mem (table.toNat + 8 + 32 * i) 32
      if !(s.coreAt c).timed || !s.orderOk (dieOf c) head rows then cmdFail s 5
      else
        match s.loadImages c (orderImages (rows.map segmentOf)) (orderImages (rows.map segmentOf)) with
        | none => cmdFail s 5
        | some s => cmdDone ((s.lockPages c start.locks).modCore c fun k =>
            { k with order := some ⟨rows.map segmentOf, start.time.toNat, 0, k.cycle, false, false, false⟩ }))

/-- WAY_LOCK: ways 0 to 11 of the named slices take the class, once no core of the die runs (R266). -/
def execWayLock (cmd : Cmd) (die : Bool) (slices : Word32) (ways : BitVec 16) (cls : BitVec 4) (s : State) : Out :=
  .next (s.runCmd cmd 0x2A fun s =>
    if !s.dieReady die then cmdFail s 4
    else if 4096 ≤ ways.toNat then cmdFail s 1
    else
      let named (k : Nat × Nat) : Bool := slices.getLsbD k.1 && ways.getLsbD k.2
      let new := (List.range 32).flatMap fun i => ((List.range 12).map fun j => (i, j)).filter named
      cmdWaits (.wayLock die new cls) s)

/-- R267: does a die's set of routes give one link more than 12 slots of a frame. A single route of more than 12 slots
does, routes that take at most 12 slots together do not, and between the two the spec does not state it (log 30). -/
def routesOverfull (routes : List (CoreId × BitVec 5)) : Bool :=
  let slots := routes.map fun r => (r.1.toNat, r.2.toNat)
  slots.any (fun r => decide (12 < r.2)) || (decide (12 < (slots.map (·.2)).sum) && Config.linkOverfull slots)

/-- R268: cores of a die in reservation class TIMED. -/
def State.timedRoutes (s : State) (d : Bool) (but : CoreId) : Nat :=
  (allCores.filter fun c => dieOf c == d && c != but && (s.coreAt c).rclass == .timed).length

/-- ROUTE_RESERVE: a core's slots and its memory reservation class. -/
def execRouteReserve (cmd : Cmd) (c : CoreId) (slots : BitVec 5) (cls : RClass) (s : State) : Out :=
  .next (s.runCmd cmd 0x2B fun s =>
    match s.targetCore (dieOf c) (pcoreOf c) with
    | none => cmdFail s 4
    | some c =>
      let d := dieOf c
      let routes := ((s.dieAt d).routes.filter fun r => r.1 != c) ++ (if slots = 0 then [] else [(c, slots)])
      if (slots = 0) ≠ (cls = .opn) then cmdFail s 1
      else if routesOverfull routes ∨ (cls = .timed ∧ 16 ≤ s.timedRoutes d c) then cmdFail s 5
      else
        cmdDone ((s.modCore c fun k => { k with rclass := cls }).modDie d fun v => { v with routes := routes }))

/-! ### Scan policy and failover (R420, R423) -/

def execScanPolicy (cmd : Cmd) (die : Bool) (p : ScanPolicy) (s : State) : Out :=
  .next (s.runCmd cmd 0x39 fun s =>
    if !s.dieFitted die then cmdFail s 4
    else if p.maxAbort = 0 then cmdFail s 1
    else cmdDone (s.modDie die fun v => { v with policy := p }))

/-- FAILOVER with ACTION 0 and 1. -/
def State.failoverSet (s : State) (d : Bool) (allow : Bool) : CmdOut :=
  if s.hasFailover then cmdDone (s.modDie d fun v => { v with failAllow := allow }) else cmdFail s 4

def execFailoverForbid (cmd : Cmd) (die : Bool) (s : State) : Out := .next (s.runCmd cmd 0x3A fun s => s.failoverSet die false)

def execFailoverAllow (cmd : Cmd) (die : Bool) (s : State) : Out := .next (s.runCmd cmd 0x3A fun s => s.failoverSet die true)

/-- FAILOVER with ACTION 2: a die-level event now. -/
def execFailoverForce (cmd : Cmd) (die : Bool) (s : State) : Out :=
  .next (s.runCmd cmd 0x3A fun s =>
    if !s.hasFailover || !s.dieReady (!die) || !s.dieReady die then cmdFail s 4 else cmdDone (s.dieLevel die .forced))

/-! ### Links and time (R338, R346 to R348, R409) -/

/-- R18: device-link port i is fitted. -/
def State.linkFitted (s : State) (i : Nat) : Bool := bitAt (bits s.cap0.toNat 13 10) i

/-- R338: the LINK bit of a port follows its state. -/
def State.linkBit (s : State) (p : BitVec 2) : State :=
  let l := s.dev.links[p.toNat]'p.isLt
  s.setReadyBit (26 + p.toNat) (l.up && l.configured)

def State.modLink (s : State) (p : BitVec 2) (f : Link → Link) : State :=
  (s.modDev fun d => { d with links := d.links.set p.toNat (f (d.links[p.toNat]'p.isLt)) p.isLt }).linkBit p

/-- R346, R292: one route to each other device. -/
def routesSingle (routes : List Route) : Bool := decide ((distinct (routes.map (·.1))).length = routes.length)

/-- LINK_CONFIG: the device number and the routes: one for a device, each of 1 to 4 hops, over a port that is up (log 42). The
sequence numbers start again (R409). -/
def execLinkConfig (cmd : Cmd) (dev : BitVec 4) (routes : List Route) (s : State) : Out :=
  .next (s.runCmd cmd 0x40 fun s =>
    if !routesSingle routes ∨ routes.any fun r => decide (r.2.2 = 0) || decide (4 < r.2.2.toNat) || !s.linkFitted r.2.1.toNat then cmdFail s 1
    else if routes.any fun r => !(s.dev.links[r.2.1.toNat]'r.2.1.isLt).up then cmdFail s 5
    else
      let s := s.modDev fun d => { d with
        devNo := dev, routes := routes, seqOut := Vector.replicate 16 0, seqIn := Vector.replicate 16 0, unacked := [] }
      cmdDone (([0, 1, 2, 3] : List (BitVec 2)).foldl (fun s p =>
        s.modLink p fun l => { l with configured := routes.any fun r => r.2.1 == p }) s))

/-- R348: hops of the longest route. -/
def Dev.maxHops (d : Dev) : Nat := d.routes.foldl (fun m r => max m r.2.2.toNat) 0

/-- TIME_CONFIG. -/
def execTimeConfig (cmd : Cmd) (p : TimeParams) (s : State) : Out :=
  .next (s.runCmd cmd 0x41 fun s =>
    if p.windowUs < 2 ∨ 256 < p.windowUs then cmdFail s 1
    else if p.windowUs * 1000 < 2 * cyclesNs (s.dev.maxHops * 700) + 200 then cmdFail s 5
    else
      let s := s.modDev fun d => { d with tb := { d.tb with
        master := p.master, windowUs := p.windowUs, backup := p.backup } }
      let s := match p.setNs with
        | some t => s.setTime t
        | none => s
      cmdDone ((s.heldLimit false).heldLimit p.master))

/-! ### DEBUG (R241, R341, R388) -/

/-- R341: DEBUG names a halted context of a present core. -/
def State.debugTarget (s : State) (c : CoreId) (x : CtxId) (k : CoreId → State) : CmdOut :=
  match s.targetCore (dieOf c) (pcoreOf c) with
  | none => cmdFail s 4
  | some p => if (s.ctxAt p x).halted then cmdDone (k p) else cmdFail s 5

/-- R241, R388: a halted context goes on: after HALT at the next bundle, after a breakpoint as ERET would. -/
def Ctx.unhalt (v : Ctx) : Ctx :=
  let v' := { v with halted := false, after := .none }
  if v.after = .halt then v'.eret else v'

/-- DEBUG action 0. -/
def execDebugResume (cmd : Cmd) (c : CoreId) (x : CtxId) (s : State) : Out :=
  .next (s.runCmd cmd 0x50 fun s => s.debugTarget c x fun c => s.modCtx c x Ctx.unhalt)

/-- DEBUG action 1. -/
def execDebugEndTask (cmd : Cmd) (c : CoreId) (x : CtxId) (s : State) : Out :=
  .next (s.runCmd cmd 0x50 fun s => s.debugTarget c x fun c => s.failCtx c x)

end Sys2Proof.Machine
end

