-- ==== Sys2Proof/Machine/Events.lean ====
section
/-! DEFINITION. Machine/Events.lean: detector reports, register writes of the host, host and fabric traffic, links, and
readiness (R17, R286, R288, R289, R335, R337, R338, R346, R368 to R376, R402, R407 to R409, R428, R446). -/

namespace Sys2Proof.Machine

/-! ### Detector reports (R368 to R376, R402) -/

/-- The entry of a report, with the run count of its context. -/
def reportEntry (code : Byte) (c : CoreId) (x : CtxId) (run : Nat) (unit : Byte) (addr : Word) (synd : BitVec 16) : LogEntry :=
  if code.toNat ≤ 0x0B ∧ code ≠ 0x04 then { coreEntry code 1 c x run addr with unit := unit, synd := synd }
  else if code = 0x04 then { coreEntry code 1 c x 0 addr with pcore := 0, ctx := 0, unit := unit, synd := synd }
  else { stageEntry code 1 addr with unit := unit, synd := synd }

/-- R368: detectors whose single-bit errors are corrected. -/
def correctable (code : Byte) : Bool :=
  code == 0x03 || code == 0x04 || code == 0x05 || code == 0x06 || code == 0x0C || code == 0x0D || code == 0x0E

/-- R371, R372: a corrected error counts, for its core where it concerns one. -/
def State.correctedReport (s : State) (code : Byte) (c : CoreId) (e : LogEntry) : State :=
  let s := if code.toNat ≤ 0x06 ∧ code ≠ 0x04 then s.modCore c fun k => { k with ceCount := satInc16 k.ceCount } else s
  s.logCorrected e

/-- R402: the dirty owner copy of a line in the cache that a report names. -/
def State.dirtyCopy (s : State) (code : Byte) (c : CoreId) (line : Nat) : Bool :=
  let h := if code = 0x03 then (s.lineAt line).l1dHold c else (s.lineAt line).sliceHold (dieOf c)
  (code == 0x03 || code == 0x04) && h.owner && h.dirty

/-- R370: a timing-margin report rolls back every open region of the core that has not passed step 2 of its commit;
together they are one error of the core. -/
def State.marginReport (s : State) (c : CoreId) : State :=
  let hit := allCtxs.filter fun x => (s.ctxAt c x).opened && !(s.ctxAt c x).pastHorizon
  match hit with
  | [] => s.logEvent (coreEntry 0x0B 1 c 0 0 0)
  | x0 :: _ =>
    let s := hit.foldl (fun s x =>
      let run := (s.ctxAt c x).run + 1
      (s.rollback c x).modCtx c x fun v => { v with run := run }) s
    let run := hit.foldl (fun m x => max m (s.ctxAt c x).run) 0
    let s := match hit.find? fun x => decide ((s.ctxAt c x).run < 3) with
      | some x => s.logEvent (coreEntry 0x0B 1 c x (s.ctxAt c x).run 0)
      | none => s
    let s := hit.foldl (fun s x => if 3 ≤ (s.ctxAt c x).run then s.escalate c x 0 else s) s
    s.countError c x0 run 0

/-- R376: an uncorrected error of a stage-die table: of a structure that both dies share it stops the device, of a structure of a
die, as every one is on the HX920, it is a die-level event. -/
def State.stageTableError (s : State) (e : LogEntry) (d shared : Bool) : State :=
  let s := s.logEvent { e with sev := 3 }
  if !s.hasFailover then s.dieLevel false .stageTable
  else if shared then s.modDev fun d => { d with sharedStop := true }
  else s.dieLevel d .stageTable

/-- R368, R369, R402: an uncorrected report. -/
def State.uncorrected (s : State) (code : Byte) (c : CoreId) (x : CtxId) (attempt : Nat) (shared : Bool) (e : LogEntry) : State :=
  let line := e.addr.toNat / 64
  if code = 0x0B then s.marginReport c
  else if code = 0x0E then s.stageTableError e (dieOf c) shared
  else if code = 0x0D then
    (s.poisonLine line).detectRollback { coreEntry 0x0D 1 c x 0 e.addr with unit := e.unit, synd := e.synd } c x attempt
  else
    let s := if s.dirtyCopy code c line then s.poisonLine line else s
    s.detectRollback e c x attempt

/-- A report: of a stage-die table it tells of the die of core c, or of a structure that both dies share. -/
def execDetectorReport (code : Byte) (c : CoreId) (x : CtxId) (kind : ReportKind) (unit : Byte) (addr : Word) (synd : BitVec 16)
    (s : State) : Out :=
  .next (let e := reportEntry code c x (s.ctxAt c x).run unit addr synd
    if code = 0 ∨ 0x0E < code.toNat then s
    else if kind.corrected then (if correctable code then s.correctedReport code c e else s)
    else if code = 0x0C then s
    else s.uncorrected code c x kind.attempt kind.shared e)

def execTimingMarginReport (c : CoreId) (s : State) : Out := .next (s.marginReport c)

/-- R368, R369: a report that the model's own detectors have raised arrives. -/
def State.deliverReport (s : State) (c : CoreId) (r : Report) : State :=
  let s := s.modCore c fun k => { k with reports := eraseFirst (fun q => q == r) k.reports }
  s.uncorrected r.code c r.x r.region false (reportEntry r.code c r.x (s.ctxAt c r.x).run 0 r.addr r.synd)

/-! ### Registers written by the host (R337, R371, R372, R428, R446) -/

def execElogPop (seq : BitVec 16) (s : State) : Out := .next (s.elogPop seq)

def execRegisterWrite (off : BitVec 24) (be : Byte) (v : Word) (s : State) : Out :=
  .next (s.windowWrite (off.toNat / 8 * 8) be v)

def execFinjCtlWrite (be : Byte) (v : Word) (s : State) : Out := .next (s.finjWrite be v)

def execSqTailDoorbell (ring : BitVec 2) (tail : Word) (s : State) : Out := .next (s.doorbell ring tail)

def execRingEnable (ring : BitVec 2) (s : State) : Out := .next (s.enableRing ring)

def execRingDisable (ring : BitVec 2) (s : State) : Out := .next (s.disableRing ring)

/-! ### The host link (R285, R286, R288, R335, R403) -/

/-- R256, R288, R338: a line of device memory that the host can reach. -/
def State.hostReach (s : State) (line : Nat) : Bool :=
  s.dev.funcReady.getLsbD 33 && s.rangeOf (line * 64) == .device && s.memReady (line * 64)

/-- R288, R403: the host reads a line as it stands now, with its poison indication; the first request for a line after a failover
waits for its recreation (R427). -/
def execHostCxlMemRead (line : Nat) (s : State) : Out :=
  .next (if s.hostReach line then s.homePost ⟨512, line, .read, none⟩ else s)

/-- R288: a host write is a one-line commit of RQ 512. -/
def execHostCxlMemWrite (line : Nat) (mask : BitVec 64) (data : BitVec 512) (s : State) : Out :=
  .next (if s.hostReach line then s.homePost ⟨512, line, .write mask data, none⟩ else s)

/-- R226: the host acknowledges a store of the context. -/
def execHostWriteAck (c : CoreId) (x : CtxId) (s : State) : Out :=
  .next (s.modCtx c x fun v => { v with hostUnacked := v.hostUnacked - 1 })

/-- R286: the host takes back or changes a line of its memory: the device's copies go or change with it. What the host
writes to a line that it only takes back is free (log 14). -/
def execCxlCacheSnoop (line : Nat) (k : SnoopKind) (s : State) : Out :=
  .next (if s.rangeOf (line * 64) ≠ .host then s
    else
      match k with
      | .invalidate =>
        let (l, s) := (s.dropUntrackedAll fun l => l == line).freshLine
        { s with mem := mergeLine s.mem line (BitVec.allOnes 64) l }
      | .update l =>
        let s := s.modCoh fun h => { h with ut := h.ut.map fun u => if u.line = line then { u with data := l } else u }
        { s with mem := mergeLine s.mem line (BitVec.allOnes 64) l })

/-- R335: a request outside the supported features gets the error response of its protocol, which the step does not tell (log 9);
nothing else changes. -/
def execUnsupportedRequest (s : State) : Out :=
  .next (let (io, s) := s.freshBool
    let (mem, s) := s.freshBool
    s.modDev fun d => { d with hostErrors := d.hostErrors ++ [if io then .io else if mem then .mem else .cache] })

/-! ### Other devices (R283, R289, R292, R403, R408) -/

/-- R408: the next sequence number of a device is taken once. -/
def State.takeSeq (s : State) (src : BitVec 4) (seq : Nat) (k : State → State) : State :=
  if s.dev.seqIn[src.toNat]'src.isLt ≠ seq then s
  else k (s.modDev fun d => { d with seqIn := d.seqIn.set src.toNat (seq + 1) src.isLt })

/-- The tensor address of a byte of a line of tensor addresses. -/
def lineByte (tline : BitVec 58) (i : Nat) : Nat := tline.toNat * 64 + i

/-- R289, R396: the physical line of another device's access, translated here; none when a byte is refused. -/
def State.remoteLine (s : State) (tline : BitVec 58) (bytes : List Nat) (store : Bool) : Option Nat :=
  if bytes.any fun i => match s.byteKey (lineByte tline i) store with
    | some k => isRemoteKey k.1
    | none => true
  then none
  else (s.byteKey (lineByte tline (bytes.headD 0)) store).map fun k => lineOf k.1

/-- R289: an arriving line write is a one-line commit of RQ 513; one that this device refuses is dropped (log 40). -/
def execRemoteLineWrite (src : BitVec 4) (seq : Nat) (tline : BitVec 58) (mask : BitVec 64) (data : BitVec 512) (s : State) : Out :=
  .next (s.takeSeq src seq fun s =>
    match s.remoteLine tline ((List.range 64).filter fun i => mask.getLsbD i) true with
    | some line => s.homePost ⟨513, line, .write mask data, some ⟨src, tline.toNat, seq⟩⟩
    | none => s.modDev fun d => { d with acks := d.acks ++ [(src, seq)] })

/-- R396: a refused access is told to the device that asked. -/
def State.refuseRemote (s : State) (src : BitVec 4) (tline : Nat) : State :=
  s.modDev fun d => { d with reads := d.reads ++ [⟨src, tline, none, false⟩] }

/-- R289, R292, R293, R403: a line read of another device, behind its line writes, returns the line at one point, or poison. -/
def execRemoteRead (src : BitVec 4) (tline : BitVec 58) (s : State) : Out :=
  .next (match s.remoteLine tline [0] false with
    | some line => s.homePost ⟨513, line, .read, some ⟨src, tline.toNat, 0⟩⟩
    | none => s.refuseRemote src tline.toNat)

/-- R283: an atomic of another device is performed at the home. -/
def execRemoteAtomic (src : BitVec 4) (seq : Nat) (addr : Word) (wide : Bool) (op : Option AmoOp) (x y : Word)
    (s : State) : Out :=
  .next (s.takeSeq src seq fun s =>
    let tline : BitVec 58 := addr.extractLsb' 6 58
    let off := addr.toNat % 64
    match s.remoteLine tline ((List.range (atomicBytes wide)).map fun i => off + i) true with
    | some line => s.homePost ⟨513, line, .atomic off wide op x y, some ⟨src, tline.toNat, seq⟩⟩
    | none => (s.refuseRemote src tline.toNat).modDev fun d => { d with acks := d.acks ++ [(src, seq)] })

/-- R408: a write or atomic of this device is acknowledged; the old value comes with an atomic's (log 14). -/
def execRemoteWriteAck (dst : BitVec 4) (seq : Nat) (s : State) : Out :=
  .next (let this (w : RemoteWrite) : Bool := w.dst == dst && w.seq == seq
    let owner := (s.dev.unacked.find? this).map (·.owner)
    let s := s.modDev fun d => { d with unacked := d.unacked.filter fun w => !this w }
    match owner.filter fun p => ((s.ctxAt p.1 p.2).infl.bind (·.msg)) == some (dst, seq) with
    | some p => let (w, s) := s.freshWord; s.modCtx p.1 p.2 fun v => { v with homeAns := some w }
    | none => s)

/-! ### Links (R346, R407, R409) -/

/-- R409: a device is declared unreachable: its unacknowledged writes are dropped, and the entry is logged. -/
def State.unreachable (s : State) (dev : BitVec 4) : State :=
  (s.modDev fun d => { d with unacked := d.unacked.filter fun w => w.dst != dev }).logEvent
    (stageEntry 0x2A 3 (dev.setWidth 64))

/-- R346, R407: a route that Wyane can take instead: over another port that is up, of 1 to 4 hops. -/
def State.rerouteOk (s : State) (before : List (BitVec 4)) (r : Route) : Bool :=
  before.contains r.1 && r.2.2 != 0 && decide (r.2.2.toNat ≤ 4) && (s.dev.links[r.2.1.toNat]'r.2.1.isLt).up

/-- R408: every message to a device that is not acknowledged yet is sent again, in sequence order. -/
def State.resend (s : State) (dev : BitVec 4) : State :=
  s.modDev fun d => { d with sent := d.sent ++ (d.unacked.filter fun w => w.dst == dev).map fun w => (w.dst, w.seq) }

/-- R407 to R409: a port goes down: its LINK bit falls, and Wyane finds the given routes without it (log 42); what a device on a new
route has not acknowledged is sent again, and a device with no route left is declared unreachable. -/
def State.portDown (s : State) (p : BitVec 2) (reroutes : List Route) : State :=
  let before := distinct (s.dev.routes.map (·.1))
  let s := s.modLink p fun l => { l with locked := false, up := false, retries := 0 }
  let s := s.modDev fun d => { d with routes := d.routes.filter fun r => r.2.1 != p }
  let s := (reroutes.filter (s.rerouteOk before)).foldl (fun s r =>
    if s.reachable r.1.toNat then s else (s.modDev fun d => { d with routes := d.routes ++ [r] }).resend r.1) s
  (before.filter fun v => !s.reachable v.toNat).foldl (fun s v => s.unreachable v) s

/-- R346: the CRC-64 of a flit fits its header and payload (log 62). -/
def flitGood (f : Flit) : Bool := f.crc == Config.crc64 (f.header ++ f.payload)

/-- R346, R368, R407: a flit: a CRC failure is retried and counted; after 8 retries without success the port goes
down. -/
def execFlitReceive (port : BitVec 2) (f : Flit) (s : State) : Out :=
  .next (let l := s.dev.links[port.toNat]'port.isLt
    if !l.up then s
    else if flitGood f then s.modLink port fun l => { l with retries := 0 }
    else if 8 ≤ l.retries then s.portDown port f.reroutes
    else
      (s.modLink port fun l => { l with retries := l.retries + 1, resent := l.resent + 1 }).logCorrected
        { stageEntry 0x0C 0 0 with unit := BitVec.ofNat 8 port.toNat })

/-- R407: a port that is up goes down. -/
def execLinkDown (m : PortLoss) (s : State) : Out :=
  .next (if (s.dev.links[m.port.toNat]'m.port.isLt).up then s.portDown m.port m.reroutes else s)

/-- R338, R346: a port has lane lock and is trained. -/
def execLaneLock (port : BitVec 2) (s : State) : Out :=
  .next (if s.linkFitted port.toNat then
      s.modLink port fun l => { l with locked := true, up := true, retries := 0 }
    else s)

/-- R335, R338: the host link has trained at a supported width and rate: HOSTMEM rises. -/
def execHostLinkTrained (lanes gts : Nat) (s : State) : Out :=
  .next (if ([4, 8, 16] : List Nat).contains lanes && ([8, 16, 32, 64] : List Nat).contains gts then
      (s.modDev fun d => { d with hostLanes := lanes, hostGts := gts }).setReadyBit 33 true
    else s)

/-! ### Readiness (R18, R64, R338) -/

/-- R18, R338: a channel is trained and cleared; with the last one CAP2.MEM_GIB is written. -/
def execChannelReady (ch : BitVec 5) (s : State) : Out :=
  .next (if 24 ≤ ch.toNat then s
    else
      let s := s.setReadyBit ch.toNat true
      if s.dev.memGib = 0 ∧ bits s.dev.funcReady.toNat 23 0 = 2 ^ 24 - 1 then
        s.modDev fun d => { d with memGib := d.boardGib }
      else s)

/-- R338, R350: a compute die whose supply is present is ready. -/
def execDieReady (die : Bool) (s : State) : Out :=
  .next (if s.dieFitted die && !(s.dieAt die).failed && (s.dieAt die).supplied then s.setReadyBit (24 + boolNat die) true else s)

/-- R64, R338: a present core of a ready die becomes ready: its slabs, sidecars and spill stores hold zero, and CYCLE
is 0. -/
def execCoreReady (c : CoreId) (s : State) : Out :=
  .next (if s.dieReady (dieOf c) && (s.logicalOf c).isSome && !(s.coreAt c).wings && !(s.coreAt c).ready then
      s.modCore c fun k => { k with
        ready := true, cycle := 0, df := [], side := [], badWords := []
        ctxs := k.ctxs.map fun v => { v with spill := [] } }
    else s)

def execCommandReady (s : State) : Out := .next (s.setReadyBit 31 true)

def execTimedOutputUnitStart (s : State) : Out := .next (s.setReadyBit 32 true)

/-- R342, R345: at reset the keys that patches added are lost; a fused slot that was revoked stays so (log 16). -/
def fusedKeys (keys : Vector KeySlot 8) : Vector KeySlot 8 := Vector.ofFn fun i => if i.val < 4 then keys[i.val] else .absent

/-- R17, R20, R345: a reset: every field at its reset value but what the part is, the fused security version, the
host's own memory and what stands outside the part (log 1). -/
def execDeviceReset (s : State) : Out :=
  .next (let r := State.resetOf s.variant
    { r with
      mem := s.mem.filter fun c => decide (0x800000000000 ≤ c.1)
      dev := { r.dev with boardGib := s.dev.boardGib, fused := s.dev.fused, keys := fusedKeys s.dev.keys }
      agenda := s.agenda, free := s.free })

end Sys2Proof.Machine
end

