-- ==== Sys2Proof/Machine/Dispatch.lean ====
section
/-! DEFINITION. Machine/Dispatch.lean: one arm for each constructor of Instr, a direct call of its meaning. -/

namespace Sys2Proof.Machine

def exec (i : Instr) (s : State) : Host.Outcome State Fault Refusal :=
  match i with
  | .emptyBundle rs cgn cg => Sys2Proof.Machine.execEmptyBundle rs cgn cg s
  | .bundleSkip rs cg bytes => Sys2Proof.Machine.execBundleSkip rs cg bytes s
  | .implicitRegionCommit => Sys2Proof.Machine.execImplicitRegionCommit s
  | .nop => Sys2Proof.Machine.execNop s
  | .add d a b ma mb => Sys2Proof.Machine.execAdd d a b ma mb s
  | .sub d a b ma mb => Sys2Proof.Machine.execSub d a b ma mb s
  | .mul d a b ma mb => Sys2Proof.Machine.execMul d a b ma mb s
  | .mulh d a b ma mb => Sys2Proof.Machine.execMulh d a b ma mb s
  | .mulhu d a b ma mb => Sys2Proof.Machine.execMulhu d a b ma mb s
  | .div d a b ma mb => Sys2Proof.Machine.execDiv d a b ma mb s
  | .divu d a b ma mb => Sys2Proof.Machine.execDivu d a b ma mb s
  | .rem d a b ma mb => Sys2Proof.Machine.execRem d a b ma mb s
  | .remu d a b ma mb => Sys2Proof.Machine.execRemu d a b ma mb s
  | .and d a b ma mb => Sys2Proof.Machine.execAnd d a b ma mb s
  | .or d a b ma mb => Sys2Proof.Machine.execOr d a b ma mb s
  | .xor d a b ma mb => Sys2Proof.Machine.execXor d a b ma mb s
  | .shl d a b ma mb => Sys2Proof.Machine.execShl d a b ma mb s
  | .shr d a b ma mb => Sys2Proof.Machine.execShr d a b ma mb s
  | .sra d a b ma mb => Sys2Proof.Machine.execSra d a b ma mb s
  | .min d a b ma mb => Sys2Proof.Machine.execMin d a b ma mb s
  | .max d a b ma mb => Sys2Proof.Machine.execMax d a b ma mb s
  | .minu d a b ma mb => Sys2Proof.Machine.execMinu d a b ma mb s
  | .maxu d a b ma mb => Sys2Proof.Machine.execMaxu d a b ma mb s
  | .clz d a ma => Sys2Proof.Machine.execClz d a ma s
  | .ctz d a ma => Sys2Proof.Machine.execCtz d a ma s
  | .popc d a ma => Sys2Proof.Machine.execPopc d a ma s
  | .sext d a n ma => Sys2Proof.Machine.execSext d a n ma s
  | .zext d a n ma => Sys2Proof.Machine.execZext d a n ma s
  | .bfx d a b ma mb => Sys2Proof.Machine.execBfx d a b ma mb s
  | .bfi d a b ma mb => Sys2Proof.Machine.execBfi d a b ma mb s
  | .sel d a b ma mb => Sys2Proof.Machine.execSel d a b ma mb s
  | .mov d a ma => Sys2Proof.Machine.execMov d a ma s
  | .addi d a imm => Sys2Proof.Machine.execAddi d a imm s
  | .andi d a imm => Sys2Proof.Machine.execAndi d a imm s
  | .ori d a imm => Sys2Proof.Machine.execOri d a imm s
  | .xori d a imm => Sys2Proof.Machine.execXori d a imm s
  | .shli d a amt long => Sys2Proof.Machine.execShli d a amt long s
  | .shri d a amt long => Sys2Proof.Machine.execShri d a amt long s
  | .srai d a amt long => Sys2Proof.Machine.execSrai d a amt long s
  | .movi d imm => Sys2Proof.Machine.execMovi d imm s
  | .pcmp d cc a b ma mb u => Sys2Proof.Machine.execPcmp d cc a b ma mb u s
  | .pcmpi d cc a imm => Sys2Proof.Machine.execPcmpi d cc a imm s
  | .pand d a b => Sys2Proof.Machine.execPand d a b s
  | .por d a b => Sys2Proof.Machine.execPor d a b s
  | .pxor d a b => Sys2Proof.Machine.execPxor d a b s
  | .pandn d a b => Sys2Proof.Machine.execPandn d a b s
  | .pts d => Sys2Proof.Machine.execPts d s
  | .pfs a ma => Sys2Proof.Machine.execPfs a ma s
  | .ld d a size sx ma off => Sys2Proof.Machine.execLd d a size sx ma off s
  | .st a b size ma mb off => Sys2Proof.Machine.execSt a b size ma mb off s
  | .ldsp d a n ma => Sys2Proof.Machine.execLdsp d a n ma s
  | .stsp n a b ma mb => Sys2Proof.Machine.execStsp n a b ma mb s
  | .br a ma => Sys2Proof.Machine.execBr a ma s
  | .bri off => Sys2Proof.Machine.execBri off s
  | .call d a ma => Sys2Proof.Machine.execCall d a ma s
  | .calli d off => Sys2Proof.Machine.execCalli d off s
  | .ret a ma => Sys2Proof.Machine.execRet a ma s
  | .bswap a ma => Sys2Proof.Machine.execBswap a ma s
  | .loop a ma len => Sys2Proof.Machine.execLoop a ma len s
  | .loopp a ma stages len => Sys2Proof.Machine.execLoopp a ma stages len s
  | .vsetshapeReg a ma => Sys2Proof.Machine.execVsetshapeReg a ma s
  | .vsetshapeImm w => Sys2Proof.Machine.execVsetshapeImm w s
  | .vadd d a b ma mb => Sys2Proof.Machine.execVadd d a b ma mb s
  | .vsub d a b ma mb => Sys2Proof.Machine.execVsub d a b ma mb s
  | .vmul d a b ma mb => Sys2Proof.Machine.execVmul d a b ma mb s
  | .vfma d a b ma mb => Sys2Proof.Machine.execVfma d a b ma mb s
  | .vfms d a b ma mb => Sys2Proof.Machine.execVfms d a b ma mb s
  | .vmin d a b ma mb => Sys2Proof.Machine.execVmin d a b ma mb s
  | .vmax d a b ma mb => Sys2Proof.Machine.execVmax d a b ma mb s
  | .vabs d a ma => Sys2Proof.Machine.execVabs d a ma s
  | .vneg d a ma => Sys2Proof.Machine.execVneg d a ma s
  | .vadds d a b ma mb => Sys2Proof.Machine.execVadds d a b ma mb s
  | .vsubs d a b ma mb => Sys2Proof.Machine.execVsubs d a b ma mb s
  | .vmulh d a b ma mb => Sys2Proof.Machine.execVmulh d a b ma mb s
  | .vand d a b ma mb => Sys2Proof.Machine.execVand d a b ma mb s
  | .vor d a b ma mb => Sys2Proof.Machine.execVor d a b ma mb s
  | .vxor d a b ma mb => Sys2Proof.Machine.execVxor d a b ma mb s
  | .vnot d a ma => Sys2Proof.Machine.execVnot d a ma s
  | .vshl d a b ma mb => Sys2Proof.Machine.execVshl d a b ma mb s
  | .vshr d a b ma mb => Sys2Proof.Machine.execVshr d a b ma mb s
  | .vsra d a b ma mb => Sys2Proof.Machine.execVsra d a b ma mb s
  | .vcmp d cc a b ma mb => Sys2Proof.Machine.execVcmp d cc a b ma mb s
  | .vsel d a k ma => Sys2Proof.Machine.execVsel d a k ma s
  | .vsplatReg d a ma => Sys2Proof.Machine.execVsplatReg d a ma s
  | .vsplatImm d w => Sys2Proof.Machine.execVsplatImm d w s
  | .vbcast d a b ma mb => Sys2Proof.Machine.execVbcast d a b ma mb s
  | .vextr d a b ma mb => Sys2Proof.Machine.execVextr d a b ma mb s
  | .vins d a b ma mb => Sys2Proof.Machine.execVins d a b ma mb s
  | .viota d k => Sys2Proof.Machine.execViota d k s
  | .vcvt d a ma dt src rm scale => Sys2Proof.Machine.execVcvt d a ma dt src rm scale s
  | .vreq d a ma dt src rm sup scale => Sys2Proof.Machine.execVreq d a ma dt src rm sup scale s
  | .vred d a ma op axis rm => Sys2Proof.Machine.execVred d a ma op axis rm s
  | .vscan d a ma op col ex => Sys2Proof.Machine.execVscan d a ma op col ex s
  | .vperm d a b ma mb => Sys2Proof.Machine.execVperm d a b ma mb s
  | .vtrans d a ma => Sys2Proof.Machine.execVtrans d a ma s
  | .vgath d a b ma mb => Sys2Proof.Machine.execVgath d a b ma mb s
  | .vscat d a b ma mb => Sys2Proof.Machine.execVscat d a b ma mb s
  | .vdot4 d a b ma mb => Sys2Proof.Machine.execVdot4 d a b ma mb s
  | .vrng d a b ma mb => Sys2Proof.Machine.execVrng d a b ma mb s
  | .vcopy d a ma => Sys2Proof.Machine.execVcopy d a ma s
  | .kand d a b => Sys2Proof.Machine.execKand d a b s
  | .kor d a b => Sys2Proof.Machine.execKor d a b s
  | .kxor d a b => Sys2Proof.Machine.execKxor d a b s
  | .knot d a => Sys2Proof.Machine.execKnot d a s
  | .kpopc d a => Sys2Proof.Machine.execKpopc d a s
  | .ktop d a => Sys2Proof.Machine.execKtop d a s
  | .vsetwin a ma => Sys2Proof.Machine.execVsetwin a ma s
  | .vsetix d a ma => Sys2Proof.Machine.execVsetix d a ma s
  | .fexp2 d a ma => Sys2Proof.Machine.execFexp2 d a ma s
  | .flog2 d a ma => Sys2Proof.Machine.execFlog2 d a ma s
  | .frcp d a ma => Sys2Proof.Machine.execFrcp d a ma s
  | .frsq d a ma => Sys2Proof.Machine.execFrsq d a ma s
  | .fsin d a ma => Sys2Proof.Machine.execFsin d a ma s
  | .fcos d a ma => Sys2Proof.Machine.execFcos d a ma s
  | .ftanh d a ma => Sys2Proof.Machine.execFtanh d a ma s
  | .fsigm d a ma => Sys2Proof.Machine.execFsigm d a ma s
  | .tdesc d a ma => Sys2Proof.Machine.execTdesc d a ma s
  | .tld d a b ma mb t => Sys2Proof.Machine.execTld d a b ma mb t s
  | .tldp d a b ma mb t p1 p2 => Sys2Proof.Machine.execTldp d a b ma mb t p1 p2 s
  | .tldm d a b ma mb t c => Sys2Proof.Machine.execTldm d a b ma mb t c s
  | .tlds d a ma => Sys2Proof.Machine.execTlds d a ma s
  | .tst d a b ma mb t => Sys2Proof.Machine.execTst d a b ma mb t s
  | .tstM d a b ma mb t p1 p2 => Sys2Proof.Machine.execTstM d a b ma mb t p1 p2 s
  | .tpf t a b ma mb => Sys2Proof.Machine.execTpf t a b ma mb s
  | .tpfl t a b ma mb count => Sys2Proof.Machine.execTpfl t a b ma mb count s
  | .imld a b ma mb => Sys2Proof.Machine.execImld a b ma mb s
  | .mmaI8 d a b ma mb => Sys2Proof.Machine.execMmaI8 d a b ma mb s
  | .mmaBf d a b ma mb => Sys2Proof.Machine.execMmaBf d a b ma mb s
  | .mmaT6 d a b ma mb => Sys2Proof.Machine.execMmaT6 d a b ma mb s
  | .mmaT8 d a b ma mb => Sys2Proof.Machine.execMmaT8 d a b ma mb s
  | .mmaT12 d a b ma mb => Sys2Proof.Machine.execMmaT12 d a b ma mb s
  | .mmaAd d a b ma mb => Sys2Proof.Machine.execMmaAd d a b ma mb s
  | .mmaAdRungEnd c => Sys2Proof.Machine.execMmaAdRungEnd c s
  | .mzero d => Sys2Proof.Machine.execMzero d s
  | .mfinI d => Sys2Proof.Machine.execMfinI d s
  | .mfinF d => Sys2Proof.Machine.execMfinF d s
  | .mlimImm n => Sys2Proof.Machine.execMlimImm n s
  | .mlimReg a ma => Sys2Proof.Machine.execMlimReg a ma s
  | .mbud a b ma mb => Sys2Proof.Machine.execMbud a b ma mb s
  | .mrd d sel clr => Sys2Proof.Machine.execMrd d sel clr s
  | .mcvt d a ma toBf => Sys2Proof.Machine.execMcvt d a ma toBf s
  | .commit => Sys2Proof.Machine.execCommit s
  | .fence sc => Sys2Proof.Machine.execFence sc s
  | .ifence => Sys2Proof.Machine.execIfence s
  | .amo op wide sc d a b ma mb => Sys2Proof.Machine.execAmo op wide sc d a b ma mb s
  | .cas wide sc d a b ma mb c => Sys2Proof.Machine.execCas wide sc d a b ma mb c s
  | .yield => Sys2Proof.Machine.execYield s
  | .await a ma => Sys2Proof.Machine.execAwait a ma s
  | .tspawn d a b ma mb => Sys2Proof.Machine.execTspawn d a b ma mb s
  | .texit a ma => Sys2Proof.Machine.execTexit a ma s
  | .fnew d => Sys2Proof.Machine.execFnew d s
  | .fset a b ma mb => Sys2Proof.Machine.execFset a b ma mb s
  | .fgetV d a ma => Sys2Proof.Machine.execFgetV d a ma s
  | .fgetS d a ma => Sys2Proof.Machine.execFgetS d a ma s
  | .ffail a ma => Sys2Proof.Machine.execFfail a ma s
  | .ffree a ma => Sys2Proof.Machine.execFfree a ma s
  | .cnew d => Sys2Proof.Machine.execCnew d s
  | .cjoin a ma => Sys2Proof.Machine.execCjoin a ma s
  | .cleave a ma => Sys2Proof.Machine.execCleave a ma s
  | .cfree a ma => Sys2Proof.Machine.execCfree a ma s
  | .barrive d a ma => Sys2Proof.Machine.execBarrive d a ma s
  | .bexpect a b ma mb => Sys2Proof.Machine.execBexpect a b ma mb s
  | .bwait a b ma mb => Sys2Proof.Machine.execBwait a b ma mb s
  | .btest d a b ma mb => Sys2Proof.Machine.execBtest d a b ma mb s
  | .barrierWaiterRelease c x => Sys2Proof.Machine.execBarrierWaiterRelease c x s
  | .sysr d n => Sys2Proof.Machine.execSysr d n s
  | .sysw d n => Sys2Proof.Machine.execSysw d n s
  | .trap n => Sys2Proof.Machine.execTrap n s
  | .eret => Sys2Proof.Machine.execEret s
  | .uiret => Sys2Proof.Machine.execUiret s
  | .brk n => Sys2Proof.Machine.execBrk n s
  | .halt => Sys2Proof.Machine.execHalt s
  | .waitt a ma => Sys2Proof.Machine.execWaitt a ma s
  | .tout a b ma mb => Sys2Proof.Machine.execTout a b ma mb s
  | .imsum d a b ma mb => Sys2Proof.Machine.execImsum d a b ma mb s
  | .scan d => Sys2Proof.Machine.execScan d s
  | .ctxsave a ma => Sys2Proof.Machine.execCtxsave a ma s
  | .ctxload a ma => Sys2Proof.Machine.execCtxload a ma s
  | .resultLand c x => Sys2Proof.Machine.execResultLand c x s
  | .matrixResultLand c => Sys2Proof.Machine.execMatrixResultLand c s
  | .tileFillLand c => Sys2Proof.Machine.execTileFillLand c s
  | .tileStorePerform c => Sys2Proof.Machine.execTileStorePerform c s
  | .tpflComplete c => Sys2Proof.Machine.execTpflComplete c s
  | .imldLineArrive c => Sys2Proof.Machine.execImldLineArrive c s
  | .horizonWaitEnd c x => Sys2Proof.Machine.execHorizonWaitEnd c x s
  | .detectorReport code c x kind unit addr synd => Sys2Proof.Machine.execDetectorReport code c x kind unit addr synd s
  | .timingMarginReport c => Sys2Proof.Machine.execTimingMarginReport c s
  | .elogPop seq => Sys2Proof.Machine.execElogPop seq s
  | .registerWrite off be v => Sys2Proof.Machine.execRegisterWrite off be v s
  | .finjCtlWrite be v => Sys2Proof.Machine.execFinjCtlWrite be v s
  | .sqTailDoorbell ring tail => Sys2Proof.Machine.execSqTailDoorbell ring tail s
  | .ringEnable ring => Sys2Proof.Machine.execRingEnable ring s
  | .ringDisable ring => Sys2Proof.Machine.execRingDisable ring s
  | .identify cmd => Sys2Proof.Machine.execIdentify cmd s
  | .health cmd buf => Sys2Proof.Machine.execHealth cmd buf s
  | .imageLoad cmd addr len dies sigOk => Sys2Proof.Machine.execImageLoad cmd addr len dies sigOk s
  | .imageUnload cmd id => Sys2Proof.Machine.execImageUnload cmd id s
  | .tensorMap cmd p => Sys2Proof.Machine.execTensorMap cmd p s
  | .tensorUnmap cmd id => Sys2Proof.Machine.execTensorUnmap cmd id s
  | .leafSet cmd id first count w ut => Sys2Proof.Machine.execLeafSet cmd id first count w ut s
  | .queueCreate cmd die q attrs => Sys2Proof.Machine.execQueueCreate cmd die q attrs s
  | .queueDestroy cmd die q => Sys2Proof.Machine.execQueueDestroy cmd die q s
  | .launch cmd die q addr => Sys2Proof.Machine.execLaunch cmd die q addr s
  | .coreClass cmd die mask timed => Sys2Proof.Machine.execCoreClass cmd die mask timed s
  | .runningOrder cmd c table start => Sys2Proof.Machine.execRunningOrder cmd c table start s
  | .wayLock cmd die slices ways cls => Sys2Proof.Machine.execWayLock cmd die slices ways cls s
  | .routeReserve cmd c slots cls => Sys2Proof.Machine.execRouteReserve cmd c slots cls s
  | .futureTable cmd entries => Sys2Proof.Machine.execFutureTable cmd entries s
  | .coreRetire cmd die lcore => Sys2Proof.Machine.execCoreRetire cmd die lcore s
  | .scanPolicy cmd die p => Sys2Proof.Machine.execScanPolicy cmd die p s
  | .failoverForbid cmd die => Sys2Proof.Machine.execFailoverForbid cmd die s
  | .failoverAllow cmd die => Sys2Proof.Machine.execFailoverAllow cmd die s
  | .failoverForce cmd die => Sys2Proof.Machine.execFailoverForce cmd die s
  | .linkConfig cmd dev routes => Sys2Proof.Machine.execLinkConfig cmd dev routes s
  | .timeConfig cmd p => Sys2Proof.Machine.execTimeConfig cmd p s
  | .attest cmd nonce report => Sys2Proof.Machine.execAttest cmd nonce report s
  | .fwPatch cmd addr p => Sys2Proof.Machine.execFwPatch cmd addr p s
  | .debugResume cmd c x => Sys2Proof.Machine.execDebugResume cmd c x s
  | .debugEndTask cmd c x => Sys2Proof.Machine.execDebugEndTask cmd c x s
  | .taskPlacement die => Sys2Proof.Machine.execTaskPlacement die s
  | .taskResume c x => Sys2Proof.Machine.execTaskResume c x s
  | .preemptionRequest c x => Sys2Proof.Machine.execPreemptionRequest c x s
  | .hwContextSave c x => Sys2Proof.Machine.execHwContextSave c x s
  | .debitReport c => Sys2Proof.Machine.execDebitReport c s
  | .bucketRefill => Sys2Proof.Machine.execBucketRefill s
  | .segmentStart c => Sys2Proof.Machine.execSegmentStart c s
  | .timingTrap c => Sys2Proof.Machine.execTimingTrap c s
  | .segmentSlotEnd c => Sys2Proof.Machine.execSegmentSlotEnd c s
  | .timedOutputFire => Sys2Proof.Machine.execTimedOutputFire s
  | .rd r at_ => Sys2Proof.Machine.execRd r at_ s
  | .rdx r at_ => Sys2Proof.Machine.execRdx r at_ s
  | .upg r held at_ => Sys2Proof.Machine.execUpg r held at_ s
  | .cnv line rq => Sys2Proof.Machine.execCnv line rq s
  | .fwd r dst => Sys2Proof.Machine.execFwd r dst s
  | .tok m => Sys2Proof.Machine.execTok m s
  | .cfl line m => Sys2Proof.Machine.execCfl line m s
  | .rtn line c => Sys2Proof.Machine.execRtn line c s
  | .done line rq => Sys2Proof.Machine.execDone line rq s
  | .wb line count owner dirty => Sys2Proof.Machine.execWb line count owner dirty s
  | .wbWritePosted line => Sys2Proof.Machine.execWbWritePosted line s
  | .preq r => Sys2Proof.Machine.execPreq r s
  | .pact r act dst => Sys2Proof.Machine.execPact r act dst s
  | .pdone line rq => Sys2Proof.Machine.execPdone line rq s
  | .prel m => Sys2Proof.Machine.execPrel m s
  | .persistentConversion line rq => Sys2Proof.Machine.execPersistentConversion line rq s
  | .persistentTimeout m => Sys2Proof.Machine.execPersistentTimeout m s
  | .tokenRecreationComplete m => Sys2Proof.Machine.execTokenRecreationComplete m s
  | .patrolScrub line find => Sys2Proof.Machine.execPatrolScrub line find s
  | .hostCxlMemRead line => Sys2Proof.Machine.execHostCxlMemRead line s
  | .hostCxlMemWrite line mask data => Sys2Proof.Machine.execHostCxlMemWrite line mask data s
  | .hostWriteAck c x => Sys2Proof.Machine.execHostWriteAck c x s
  | .remoteLineWrite src seq tline mask data => Sys2Proof.Machine.execRemoteLineWrite src seq tline mask data s
  | .remoteRead src tline => Sys2Proof.Machine.execRemoteRead src tline s
  | .remoteAtomic src seq addr wide op x y => Sys2Proof.Machine.execRemoteAtomic src seq addr wide op x y s
  | .remoteWriteAck dst seq => Sys2Proof.Machine.execRemoteWriteAck dst seq s
  | .flitReceive port crc => Sys2Proof.Machine.execFlitReceive port crc s
  | .linkDown m => Sys2Proof.Machine.execLinkDown m s
  | .fenceWindowEnd c x => Sys2Proof.Machine.execFenceWindowEnd c x s
  | .timeSyncMessage masterNs => Sys2Proof.Machine.execTimeSyncMessage masterNs s
  | .timeLockLoss => Sys2Proof.Machine.execTimeLockLoss s
  | .timeRelock masterNs => Sys2Proof.Machine.execTimeRelock masterNs s
  | .timebaseReady => Sys2Proof.Machine.execTimebaseReady s
  | .timeSlewEnd => Sys2Proof.Machine.execTimeSlewEnd s
  | .ppsEdge ns => Sys2Proof.Machine.execPpsEdge ns s
  | .thermalReading die celsius => Sys2Proof.Machine.execThermalReading die celsius s
  | .dieLevelEvent die cause => Sys2Proof.Machine.execDieLevelEvent die cause s
  | .failoverAdoption die => Sys2Proof.Machine.execFailoverAdoption die s
  | .failoverTokenSweep line => Sys2Proof.Machine.execFailoverTokenSweep line s
  | .channelReady ch => Sys2Proof.Machine.execChannelReady ch s
  | .dieReady die => Sys2Proof.Machine.execDieReady die s
  | .coreReady c => Sys2Proof.Machine.execCoreReady c s
  | .commandReady => Sys2Proof.Machine.execCommandReady s
  | .deviceReset => Sys2Proof.Machine.execDeviceReset s
  | .scanDue c => Sys2Proof.Machine.execScanDue c s
  | .scanTaskPlacement c => Sys2Proof.Machine.execScanTaskPlacement c s
  | .scanAbort c => Sys2Proof.Machine.execScanAbort c s
  | .scanComplete c signature => Sys2Proof.Machine.execScanComplete c signature s
  | .retireTimeout c => Sys2Proof.Machine.execRetireTimeout c s
  | .coreEnterWings c => Sys2Proof.Machine.execCoreEnterWings c s
  | .laneLock port => Sys2Proof.Machine.execLaneLock port s
  | .hostLinkTrained lanes gts => Sys2Proof.Machine.execHostLinkTrained lanes gts s
  | .cxlCacheSnoop line k => Sys2Proof.Machine.execCxlCacheSnoop line k s
  | .unsupportedRequest => Sys2Proof.Machine.execUnsupportedRequest s
  | .timedOutputUnitStart => Sys2Proof.Machine.execTimedOutputUnitStart s

end Sys2Proof.Machine
end

