-- ==== Sys2Proof/Machine/Uses.lean ====
section
/-! DEFINITION. Machine/Uses.lean: what each slot instruction names: the operands it reads with their modes, what it
writes (R65, R67, R89, R91), its engine queue (R25) and its energy (R329). -/

namespace Sys2Proof.Machine

/-- What a slot names. ss and vs are scalar and slab sources with their read modes, a slab source with its number of
slabs; vq are slabs that its engine reads in the turn of its command, so that the slot never blocks on them (R65, R219); the rest are destinations. long tells that a scalar result lands after the issue cycle (R126, R162). -/
structure Uses where
  ss : List (SReg × Bool)
  vs : List (VField × Nat × Bool)
  vq : List (VField × Nat)
  ds : List SReg
  dv : List (VField × Nat)
  dp : List PReg
  dk : List KReg
  dx : List IxReg
  dt : List TdReg
  shape : Bool
  win : Bool
  long : Bool
deriving DecidableEq, Repr

def Uses.none : Uses := ⟨[], [], [], [], [], [], [], [], [], false, false, false⟩

/-- OP sD, sA, sB and OP sD, sA. -/
def use3 (d a b : SReg) (ma mb long : Bool) : Uses := { Uses.none with ss := [(a, ma), (b, mb)], ds := [d], long := long }
def use2 (d a : SReg) (ma : Bool) : Uses := { Uses.none with ss := [(a, ma)], ds := [d] }
/-- Sources only. -/
def useS (ss : List (SReg × Bool)) : Uses := { Uses.none with ss := ss }
/-- Predicates p8 to p(8+S-1) that LOOPP writes (R152). -/
def stagePreds (st : BitVec 3) : List PReg := (List.range (st.toNat + 1)).map fun j => BitVec.ofNat 4 (8 + j)
/-- OP vD with slab sources of one slab each. -/
def useV (d : VField) (vs : List (VField × Bool)) : Uses :=
  { Uses.none with vs := vs.map fun p => (p.1, 1, p.2), dv := [(d, 1)] }
/-- OP kD, kA, kB and scalar results of masks. -/
def useK (d : KReg) : Uses := { Uses.none with dk := [d] }
def useKs (d : SReg) : Uses := { Uses.none with ds := [d], long := true }
/-- A product: sources of n slabs each, and an accumulator pair. -/
def useM (d a b : VField) (ma mb : Bool) (n : Nat) : Uses :=
  { Uses.none with vs := [(a, n, ma), (b, n, mb)], dv := [(d, 2)] }
/-- The number of slabs of a multi-slab tile; one where the descriptors name no tile. -/
def multiSlabs (v : Ctx) (t p1 p2 : TdReg) : Nat := ((multiKind v t p1 p2).map TileKind.slabs).getD 1

/-- What a slot instruction names in context v; nothing for a step that is no slot instruction. -/
def usesOf (v : Ctx) (i : Instr) : Uses :=
  match i with
  | .add d a b ma mb | .sub d a b ma mb | .and d a b ma mb | .or d a b ma mb | .xor d a b ma mb
  | .shl d a b ma mb | .shr d a b ma mb | .sra d a b ma mb | .min d a b ma mb | .max d a b ma mb
  | .minu d a b ma mb | .maxu d a b ma mb | .bfx d a b ma mb | .bfi d a b ma mb | .sel d a b ma mb =>
    use3 d a b ma mb false
  | .mul d a b ma mb | .mulh d a b ma mb | .mulhu d a b ma mb | .div d a b ma mb | .divu d a b ma mb
  | .rem d a b ma mb | .remu d a b ma mb => use3 d a b ma mb true
  | .clz d a ma | .ctz d a ma | .popc d a ma | .sext d a _ ma | .zext d a _ ma | .mov d a ma => use2 d a ma
  | .addi d a _ | .andi d a _ | .ori d a _ | .xori d a _ | .shli d a _ _ | .shri d a _ _ | .srai d a _ _ => use2 d a false
  | .movi d _ | .pts d => { Uses.none with ds := [d] }
  | .pcmp d _ a b ma mb _ => { Uses.none with ss := [(a, ma), (b, mb)], dp := [d] }
  | .pcmpi d _ a _ => { Uses.none with ss := [(a, false)], dp := [d] }
  | .pand d _ _ | .por d _ _ | .pxor d _ _ | .pandn d _ _ => { Uses.none with dp := [d] }
  | .pfs a ma => { Uses.none with ss := [(a, ma)], dp := (List.range 15).map fun j => BitVec.ofNat 4 (j + 1) }
  | .ld d a _ _ ma _ => { use2 d a ma with long := true }
  | .st a b _ ma mb _ => useS [(a, ma), (b, mb)]
  | .ldsp d a _ ma => { use2 d a ma with long := true }
  | .stsp _ a b ma mb => useS [(a, ma), (b, mb)]
  | .br a ma | .ret a ma | .bswap a ma => useS [(a, ma)]
  | .call d a ma => use2 d a ma
  | .calli d _ => { Uses.none with ds := [d] }
  | .loop a ma _ => useS [(a, ma)]
  | .loopp a ma st _ => { Uses.none with ss := [(a, ma)], dp := stagePreds st }
  | .vsetshapeReg a ma => { Uses.none with ss := [(a, ma)], shape := true }
  | .vsetshapeImm _ => { Uses.none with shape := true }
  | .vadd d a b ma mb | .vsub d a b ma mb | .vmul d a b ma mb | .vmin d a b ma mb | .vmax d a b ma mb
  | .vadds d a b ma mb | .vsubs d a b ma mb | .vmulh d a b ma mb | .vand d a b ma mb | .vor d a b ma mb
  | .vxor d a b ma mb | .vshl d a b ma mb | .vshr d a b ma mb | .vsra d a b ma mb | .vperm d a b ma mb =>
    useV d [(a, ma), (b, mb)]
  | .vfma d a b ma mb | .vfms d a b ma mb | .vdot4 d a b ma mb => useV d [(a, ma), (b, mb), (d, false)]
  | .vabs d a ma | .vneg d a ma | .vnot d a ma | .vtrans d a ma | .vcopy d a ma | .vcvt d a ma _ _ _ _
  | .vreq d a ma _ _ _ _ _ | .vred d a ma _ _ _ | .vscan d a ma _ _ _ => useV d [(a, ma)]
  | .vcmp d _ a b ma mb => { Uses.none with vs := [(a, 1, ma), (b, 1, mb)], dk := [d] }
  | .vsel d a _ ma => useV d [(a, ma), (d, false)]
  | .vsplatReg d a ma => { useV d [] with ss := [(a, ma)] }
  | .vsplatImm d _ | .viota d _ => useV d []
  | .vbcast d a b ma mb | .vrng d a b ma mb => { useV d [(a, ma)] with ss := [(b, mb)] }
  | .vextr d a b ma mb => { Uses.none with vs := [(a, 1, ma)], ss := [(b, mb)], ds := [d], long := true }
  | .vins d a b ma mb => { useV d [(d, false)] with ss := [(a, ma), (b, mb)] }
  | .vgath d a b ma mb => { Uses.none with vs := [(a, 8, ma), (b, 1, mb)], dv := [(d, 1)] }
  | .vscat d a b ma mb => { Uses.none with vs := [(a, 1, ma), (b, 1, mb)], dv := [(d, 8)] }
  | .kand d _ _ | .kor d _ _ | .kxor d _ _ | .knot d _ => useK d
  | .kpopc d _ | .ktop d _ => useKs d
  | .vsetwin a ma => { Uses.none with ss := [(a, ma)], win := true }
  | .vsetix d a ma => { Uses.none with ss := [(a, ma)], dx := [d] }
  | .fexp2 d a ma | .flog2 d a ma | .frcp d a ma | .frsq d a ma | .fsin d a ma | .fcos d a ma | .ftanh d a ma
  | .fsigm d a ma => useV d [(a, ma)]
  | .tdesc d a ma => { Uses.none with ss := [(a, ma)], dt := [d] }
  | .tld d a b ma mb _ => { Uses.none with ss := [(a, ma), (b, mb)], dv := [(d, 1)] }
  | .tldp d a b ma mb t p1 p2 => { Uses.none with ss := [(a, ma), (b, mb)], dv := [(d, multiSlabs v t p1 p2)] }
  | .tldm d a b ma mb _ c => { Uses.none with ss := [(a, ma), (b, mb), (c, false)], dv := [(d, 1)] }
  | .tlds d a ma => { Uses.none with ss := [(a, ma)], dv := [(d, 1)] }
  | .tst d a b ma mb _ => { Uses.none with ss := [(a, ma), (b, mb)], vs := [(d, 1, false)] }
  | .tstM d a b ma mb t p1 p2 => { Uses.none with ss := [(a, ma), (b, mb)], vs := [(d, multiSlabs v t p1 p2, false)] }
  | .tpf _ a b ma mb | .tpfl _ a b ma mb _ | .imld a b ma mb => useS [(a, ma), (b, mb)]
  | .mmaI8 d a b ma mb | .mmaT6 d a b ma mb | .mmaT8 d a b ma mb => useM d a b ma mb 1
  | .mmaBf d a b ma mb | .mmaT12 d a b ma mb => useM d a b ma mb 2
  | .mmaAd d a b ma mb => useM d a b ma mb (if v.mx.cont then 2 else 1)
  | .mfinI d | .mfinF d => { Uses.none with vq := [(d, 2)] }
  | .mzero d => { Uses.none with dv := [(d, 2)] }
  | .mlimReg a ma => useS [(a, ma)]
  | .mbud a b ma mb => useS [(a, ma), (b, mb)]
  | .mrd d _ _ => { Uses.none with ds := [d], long := true }
  | .mcvt d a ma toBf => { Uses.none with vs := [(a, 2, ma)], dv := [(d, if toBf then 1 else 2)] }
  | .amo _ _ _ d a b ma mb | .btest d a b ma mb | .tspawn d a b ma mb | .imsum d a b ma mb => use3 d a b ma mb true
  | .cas _ _ d a b ma mb c => { Uses.none with ss := [(a, ma), (b, mb), (c, false)], ds := [d], long := true }
  | .await a ma | .texit a ma | .ffail a ma | .ffree a ma | .cjoin a ma | .cleave a ma | .cfree a ma | .waitt a ma
  | .ctxsave a ma | .ctxload a ma => useS [(a, ma)]
  | .fnew d | .cnew d | .scan d => { Uses.none with ds := [d], long := true }
  | .fset a b ma mb | .bexpect a b ma mb | .bwait a b ma mb | .tout a b ma mb => useS [(a, ma), (b, mb)]
  | .fgetV d a ma | .fgetS d a ma | .barrive d a ma => { use2 d a ma with long := true }
  | .sysr d _ => { Uses.none with ds := [d] }
  | .sysw d _ => useS [(d, false)]
  | _ => Uses.none

/-- The slab fields of a slot, each of which may post-increment (R53). -/
def fieldsOf (v : Ctx) (i : Instr) : List VField :=
  (usesOf v i).vs.map (·.1) ++ (usesOf v i).vq.map (·.1) ++ (usesOf v i).dv.map (·.1)

/-- R25, R188, R205, R208: the engine queue that the slot needs is full. -/
def State.queueFull (s : State) (i : Instr) : Bool :=
  match i with
  | .tld _ _ _ _ _ _ | .tldp _ _ _ _ _ _ _ _ | .tldm _ _ _ _ _ _ _ | .tlds _ _ _ | .tst _ _ _ _ _ _
  | .tstM _ _ _ _ _ _ _ _ | .tpf _ _ _ _ _ | .tpfl _ _ _ _ _ _ | .imld _ _ _ _ => decide (16 ≤ s.myCore.tileHeld)
  | .mmaI8 _ _ _ _ _ | .mmaBf _ _ _ _ _ | .mmaT6 _ _ _ _ _ | .mmaT8 _ _ _ _ _ | .mmaT12 _ _ _ _ _ | .mmaAd _ _ _ _ _
  | .mzero _ | .mfinI _ | .mfinF _ | .mrd _ _ _ | .mcvt _ _ _ _ => decide (8 ≤ s.myCore.matHeld)
  | .fexp2 _ _ _ | .flog2 _ _ _ | .frcp _ _ _ | .frsq _ _ _ | .fsin _ _ _ | .fcos _ _ _ | .ftanh _ _ _ | .fsigm _ _ _ =>
    s.hasSfu && decide (4 ≤ s.myCore.sfuHeld.length)
  | _ => false

/-- R161: the widest element width that a V-class instruction reads or writes, over the array of the current shape. -/
def vecWidth (t : ElemTy) (i : Instr) : Nat :=
  match i with
  | .vcvt _ _ _ dt src _ _ => max (cvtSrcWidth t src) (cvtDstWidth dt)
  | .vreq _ _ _ dt src _ _ _ => max ((reqSrcWidth t src).getD (tyWidth t)) (reqTarget dt).width
  | .vperm _ _ _ _ _ | .vgath _ _ _ _ _ | .vscat _ _ _ _ _ => max (tyWidth t) 2
  | .vdot4 _ _ _ _ _ | .vrng _ _ _ _ _ => 4
  | _ => tyWidth t

/-- R329: the energy units of an executed slot beyond its bundle's; commands of the tile engine and the matrix unit are
counted when they take their queue entries. An instruction with one pass of its own (R162) counts one pass. -/
def energyOf (h : Shape) (pos : BitVec 3) (i : Instr) : Nat :=
  match i with
  | .mul _ _ _ _ _ | .mulh _ _ _ _ _ | .mulhu _ _ _ _ _ => 2
  | .div _ _ _ _ _ | .divu _ _ _ _ _ | .rem _ _ _ _ _ | .remu _ _ _ _ _ => 6
  | .vsetshapeReg _ _ | .vsetshapeImm _ | .vsetwin _ _ | .vsetix _ _ _ | .kand _ _ _ | .kor _ _ _ | .kxor _ _ _ | .knot _ _
  | .kpopc _ _ | .ktop _ _ | .vextr _ _ _ _ _ | .vins _ _ _ _ _ => 4
  | .vcopy _ _ _ => 64
  | .fexp2 _ _ _ | .flog2 _ _ _ | .frcp _ _ _ | .frsq _ _ _ | .fsin _ _ _ | .fcos _ _ _ | .ftanh _ _ _ | .fsigm _ _ _ =>
    6 * ceilDiv h.count 16
  | .mlimImm _ | .mlimReg _ _ | .mbud _ _ _ _ => 1
  | _ =>
    if pos = 0 ∨ pos = 1 then 1
    else if pos = 2 ∨ pos = 3 then 4 * passes h.count (vecWidth h.ty i)
    else 0

/-- A slot instruction, or one of the steps that a bundle as a whole stands for: not an event. -/
def isSlot (i : Instr) : Bool :=
  match i with
  | .emptyBundle _ _ _ | .bundleSkip _ _ _ | .implicitRegionCommit => true
  | _ => (encodeSlot i).isSome

end Sys2Proof.Machine
end

