-- ==== Sys2Proof/Machine/Issue.lean ====
section
/-! DEFINITION. Machine/Issue.lean: the issue of one bundle of a context: fetch (R125, R227), the nullifier (R87), the
checks of R91, the block test, breakpoints, the slots in turn (R89, R90), re-entry (R387), and the X operation that goes
on after a commit (R37, R224). -/

namespace Sys2Proof.Machine

/-- The state an outcome gives. Every meaning gives one. -/
def outState (o : Out) (s : State) : State :=
  match o with
  | .next t => t
  | .fault _ => s
  | .refused _ => s

/-! ### Fetch (R125, R227) -/

/-- The 36 bytes from an address on, within its half. -/
def Core.textAt (k : Core) (pc : BitVec 16) : List Byte :=
  if pc.toNat % 32768 + 36 ≤ 32768 then cellBytes k.scratch pc.toNat 36
  else (List.range 36).map fun i => cellGet k.scratch (seqPc pc i).toNat

/-- The bytes with those the context has fetched ahead. -/
def withStale (old : List Host.Cell) (pc : BitVec 16) (bs : List Byte) : List Byte :=
  (bs.zip (List.range bs.length)).map fun p => (assoc old (seqPc pc p.2).toNat).getD p.1

/-- R227: the bytes of the next bundle; where the context may have fetched them ahead, old or new is free (log 9). -/
def State.fetch (s : State) : List Byte × State :=
  let bs := s.myCore.textAt s.me.r.pc
  let old := s.me.stale
  if old.isEmpty || withStale old s.me.r.pc bs == bs then (bs, s)
  else if (s.freshBool).1 then (withStale old s.me.r.pc bs, (s.freshBool).2) else (bs, (s.freshBool).2)

/-- The nine words of 36 bytes. -/
def wordsOf (bs : List Byte) : List Word32 := (List.range 9).map fun j => BitVec.ofNat 32 (leVal ((bs.drop (4 * j)).take 4))

/-- R79: the length of a bundle in bytes. -/
def Header.bytes (h : Header) : Nat := 4 + 4 * h.count

/-! ### Names (R53, R86, R89, R387) -/

/-- G.N XOR pG. -/
def guardHolds (r : Regs) (sl : Slot) : Bool := r.getP sl.g != sl.gn

/-- The part of a context that resolves names: index registers, window and predicates. -/
structure Names where
  ix : Vector Word 4
  vwin : BitVec 32
  p : BitVec 16
deriving DecidableEq, Repr

def Ctx.names (v : Ctx) : Names := ⟨v.r.ix, v.vwin, v.r.p⟩

/-- The slab that a field names. -/
def Names.slab (n : Names) (f : VField) : Nat :=
  match fieldIx f with
  | some j => ixCur (n.ix[j.toNat]'j.isLt)
  | none => bits n.vwin.toNat 8 0 + f.toNat

/-- The frame's overlay (R386). -/
def TrapRegs.overlay (t : TrapRegs) : List (Byte × Word) :=
  (List.range 8).filterMap fun j =>
    let id : Byte := t.tovid.extractLsb' (8 * j) 8
    if id = 0 then none else some (id, t.tov[j]!)

/-- R387: the names as they were when the bundle first issued. -/
def Names.over (n : Names) (ov : List (Byte × Word)) : Names :=
  { ix := Vector.ofFn fun j => (assoc ov (BitVec.ofNat 8 (0xC4 + j.val))).getD n.ix[j.val]
    vwin := ((assoc ov (0xC9 : Byte)).map fun w => w.setWidth 32).getD n.vwin
    p := ((assoc ov (0xC0 : Byte)).map fun w => w.setWidth 16).getD n.p }

/-- The names after a slot that is not nullified: its post-increments, a new window or index register. R89 resolves names before the
block test: where a slot to the left that would change one waits for its source, or a PCMP or TDESC that the names hang on does, the
old value stands (DESIGN CHOICE, log 56). -/
def Names.after (n : Names) (part : Nat) (r : Regs) (fs : List VField) (i : Instr) : Names :=
  let n := { n with ix := Vector.ofFn fun j =>
    if (incsOf fs).contains (BitVec.ofNat 2 j.val) then ixNext n.ix[j.val] else n.ix[j.val] }
  match i with
  | .vsetwin a _ => if (r.getS a).toNat < part then { n with vwin := (r.getS a).setWidth 32 } else n
  | .vsetix d a _ =>
    if ixOk part (r.getS a &&& ixMask) then { n with ix := n.ix.set d.toNat (r.getS a &&& ixMask) d.isLt } else n
  | _ => n

/-! ### The slots of a bundle -/

/-- A slot as its turn finds it: the state it sees, what it gives, whether it is live and counted live (R89), what it
names, and the slabs it reads, has its engine read and writes under those names. -/
structure Seen where
  slot : Slot
  before : State
  out : State
  live : Bool
  counted : Bool
  uses : Uses
  reads : List (Nat × Bool)
  later : List Nat
  writes : List Nat
  heads : List Nat
  incs : List IxReg
deriving Repr

/-- The slabs of fields with their counts. -/
def Names.slabs (n : Names) (vs : List (VField × Nat)) : List Nat :=
  vs.flatMap fun p => (List.range p.2).map fun i => n.slab p.1 + i

/-- The slot whose turn it is, in state s with the names n; w are the predicates that slots to its left write, first the
position that a re-entered bundle starts from, p0 the predicates as they stood before the bundle. A guard on p0 is the same
in every execution (R86). -/
def State.see (s : State) (n : Names) (sl : Slot) (w : List PReg) (first : BitVec 3) (p0 : BitVec 16) : Seen :=
  let s := s.modCur fun u => { u with pos := sl.pos }
  let v := s.me
  let uses := usesOf v sl.instr
  let left := sl.g != 0 && w.contains sl.g
  let below := decide (sl.pos < first)
  let live := if below then guardHolds { v.r with p := if left then v.r.p else n.p } sl else guardHolds v.r sl
  let counted := !below && (left || guardHolds { v.r with p := p0 } sl)
  let fs := fieldsOf v sl.instr
  { slot := sl, before := s, live := live, counted := counted, uses := uses
    out := if counted then outState (exec sl.instr s) s else s
    reads := uses.vs.flatMap fun p => (List.range p.2.1).map fun i => (n.slab p.1 + i, p.2.2)
    later := n.slabs uses.vq
    writes := n.slabs uses.dv
    heads := (uses.vs.map fun p => n.slab p.1) ++ uses.dv.map fun p => n.slab p.1
    incs := incsOf fs }

/-- A slot that rolled its region back, or took its context away, stops the bundle. -/
def Seen.stopped (e : Seen) : Bool :=
  e.out.cur.stop != .going || e.out.me.region != e.before.me.region || e.out.me.occ != .running

/-- The state the next slot sees. -/
def Seen.next (e : Seen) (below : Bool) : State := if !below && e.live && !e.stopped then e.out else e.before

/-- Every slot of a bundle in turn. A slot that stops is passed over here. A PCMP, predicate operation, PFS or LOOPP to the left
counts as a writer of the guard whether or not it is itself nullified, or its count is 0, which R89 leaves open (DESIGN CHOICE, log 34). -/
def State.seeAll (s : State) (n cur : Names) (w : List PReg) (first : BitVec 3) (p0 : BitVec 16) : List Slot → List Seen
  | [] => []
  | sl :: rest =>
    let below := decide (sl.pos < first)
    let n := if below then n else cur
    let e := s.see n sl w first p0
    let n' := if e.live then n.after s.myPart s.me.r (fieldsOf s.me sl.instr) sl.instr else n
    let cur' := if below then cur else n'
    e :: (e.next below).seeAll n' cur' (w ++ e.uses.dp) first p0 rest

/-! ### R91: destinations, index registers and dependences -/

/-- Scalar destinations that a late result marks empty. -/
def Seen.emptied (e : Seen) : List SReg := if e.uses.long then e.uses.ds.filter (· != 0) else []

/-- Scalar destinations that a result of one cycle marks empty: an earlier write to them is outstanding (R92). -/
def Seen.queued (e : Seen) : List SReg :=
  if e.uses.long then [] else e.uses.ds.filter fun d => d != 0 && e.before.me.sregPending (e.before.me.r.isShadow d) d

/-- The scalar registers that the slot reads without blocking on them (log 29): in trap mode, or nullified. A bundle
that blocks on a register does not issue while a write to it is outstanding. -/
def Seen.unblocked (e : Seen) : List SReg := (e.uses.ss.filter fun p => p.2 || !e.counted).map (·.1)

def meets {α : Type} [DecidableEq α] (a b : List α) : Bool := a.any fun x => b.contains x

/-- Two slots of one bundle agree with R91, the first to the left of the second. -/
def pairOk (a b : Seen) : Bool :=
  let u := a.uses
  let v := b.uses
  !meets (u.ds.filter (· != 0)) v.ds && !meets (u.dp.filter (· != 0)) v.dp && !meets (u.dk.filter (· != 0)) v.dk
    && !meets (u.dx ++ a.incs) (v.dx ++ b.incs) && !meets u.dt v.dt && !(u.shape && v.shape) && !(u.win && v.win)
    && !meets a.writes b.writes && !meets a.emptied (v.ss.map (·.1)) && !meets a.queued b.unblocked && !meets a.writes (b.reads.map (·.1) ++ b.later)

def pairsOk : List Seen → Bool
  | [] => true
  | e :: rest => rest.all (pairOk e) && pairsOk rest

/-! ### The block test (R25, R67, R89) -/

/-- The slot makes the bundle block. -/
def Seen.blocks (e : Seen) : Bool :=
  e.counted &&
    ((e.uses.ss.any fun p => !p.2 && e.before.me.r.isEmptyS p.1)
      || (e.reads.any fun p => !p.2 && e.before.me.slabEmpty.contains p.1)
      || e.before.queueFull e.slot.instr || e.out.cur.stop == .blocked)

/-- The keys of a scalar access (R141). -/
def State.scalarKeys (s : State) (i : Instr) : List (Nat × PageKind) :=
  let at_ (store : Bool) (a : SReg) (size : BitVec 2) (off : Option Word32) : List (Nat × PageKind) :=
    match s.keysOf store (accessAddrs (s.me.r.getS a) off (sizeBytes size)) with
    | .ok ks => ks
    | .error _ => []
  match i with
  | .ld _ a size _ _ off => if s.me.r.isEmptyS a then [] else at_ false a size off
  | .st a _ size _ _ off => if s.me.r.isEmptyS a then [] else at_ true a size off
  | _ => []

/-- R43: a live scalar access of the slot reaches a strongly-ordered page. -/
def Seen.ordered (e : Seen) : Bool := e.counted && State.hasOrdered (e.before.scalarKeys e.slot.instr)

/-- R193, R270: the tile-walk engine reads a tensor-table entry that the port does not hold. -/
def State.fetchEntry (s : State) (id : Nat) : State :=
  let k := s.myCore
  if k.teCache.contains id || k.teFetch.any fun f => f.1 == id then s
  else
    let due := k.cycle + s.entryBound s.cur.core id
    (s.tableFill s.cur.core (descAddr id)).modMyCore fun k => { k with teFetch := k.teFetch ++ [(id, due)] }

/-- What a waiting slot sets going: TDESC's tensor-table entry (R193, 16 entries), the lines of a guarded attempt
(R399). -/
def State.setGoing (s : State) (e : Seen) : State :=
  if !e.counted then s
  else
    match e.slot.instr with
    | .tdesc _ a _ =>
      let id := bits (e.before.me.r.getS a).toNat 63 48
      if e.before.me.r.isEmptyS a then s else s.fetchEntry id
    | i => (s.acquire s.cur.core s.cur.ctx (trackedLines (e.before.scalarKeys i))).2

/-! ### Stalls (R62, R161, R206) -/

/-- R206: a slot outside the T class (whose fills wait in their engine) would write a slab that a tile store or matrix command has still to read. -/
def Seen.heldBack (e : Seen) : Bool :=
  e.live && e.counted && (e.slot.pos.toNat < 4 || decide (6 ≤ e.slot.pos.toNat))
    && e.writes.any fun q => e.before.myCore.readerBefore e.before.cur.ctx q e.before.cur.seq0

/-- R161: a live V slot finds its pipe occupied. -/
def Seen.pipeBusy (e : Seen) : Bool :=
  let k := e.before.myCore
  e.live && e.counted && (e.slot.pos = 2 || e.slot.pos = 3) && decide (k.cycle < k.vfree[(if e.slot.pos = 3 then 1 else 0 : Fin 2).val])

/-- R62: the distinct slabs that live V slots name, of which a re-entered bundle issues those from SLOT on (R387). -/
def bankSlabs (es : List Seen) : List Nat :=
  distinct ((es.filter fun e => e.live && e.counted && (e.slot.pos = 2 || e.slot.pos = 3)).flatMap Seen.heads)

/-- R62: the stall of a bundle: the largest group of slabs of one residue, less one. -/
def bankStall (qs : List Nat) : Nat := qs.foldl (fun m q => max m ((qs.filter fun p => p % 32 = q % 32).length - 1)) 0

/-! ### Exceptions before any slot takes effect -/

/-- R385: an exception at the bundle, with SLOT 0. -/
def State.trapBundle (s : State) (e : Exc) : State :=
  (s.trapEntry s.cur.core s.cur.ctx ⟨e, 0, 0, 0, s.cur.addr, 0, 0, []⟩).endTrapped

/-- R390: an enabled comparator matches. -/
def bpHit (w : Word) (c : CoreId) (x : CtxId) (addr : BitVec 16) : Bool :=
  w.getLsbD 31 && w.extractLsb' 0 16 == addr && w.extractLsb' 16 6 == pcoreOf c && w.getLsbD 22 == dieOf c
    && w.getLsbD (24 + x.toNat)

def State.bpMatch (s : State) : Bool := s.dev.bp.toList.any fun w => bpHit w s.cur.core s.cur.ctx s.cur.addr

/-- R390: TCAUSE.BPSKIP suppresses one match when re-entry or resumption reaches TEPC. -/
def Ctx.bpSkips (v : Ctx) (addr : BitVec 16) : Bool :=
  v.tr.tcause.getLsbD 17 && !v.r.active && v.reslot.isSome && v.tr.tepc.extractLsb' 0 16 == addr

/-- R150: the bundle begins in a loop's body and ends behind it. -/
def State.straddles (s : State) (bytes : Nat) : Bool :=
  s.me.r.loops.any fun l => l.inside s.cur.addr && decide (halfDist s.cur.addr l.stop < bytes)

/-! ### Issue -/

/-- R125: the bundle would cross the end of its half. -/
def crossesHalf (pc : BitVec 16) (bytes : Nat) : Bool := decide (32768 < pc.toNat % 32768 + bytes)

/-- R387: the branch of a re-entered bundle that was taken to the left of SLOT. -/
def Ctx.takenBefore (v : Ctx) : Option (BitVec 16) :=
  let code := v.tr.tcause.extractLsb' 0 8
  if v.reslot.isSome && v.tr.tval.getLsbD 16 && decide (1 ≤ code.toNat) && decide (code.toNat ≤ 0x0A) then
    some (v.tr.tval.extractLsb' 0 16)
  else none

/-- The record of the bundle that starts to issue (log 8). -/
def Cur.start (u : Cur) (v : Ctx) (bytes : Nat) (isolated : Bool) : Cur :=
  { u with pos := 0, addr := v.r.pc, next := seqPc v.r.pc bytes, br := v.takenBefore, stop := .going, cost := 0, late := 0
           overlay := if (v.reslot.getD 0) = 0 then [] else v.tr.overlay, isolated := isolated, seq0 := v.seq }

/-- R368: the bytes of its partition that a V slot reads: its elements at the width of their type, of a range or a permutation those
that it picks. -/
def Seen.spans (e : Seen) : List (Nat × Nat) :=
  let s := e.before
  let h := s.shape
  let w := tyWidth h.ty
  let src (i : Nat) : Nat := e.heads.getD i 0
  let all (n : Nat) : List (Nat × Nat) := slabSpans n (e.reads.map (·.1))
  let picked (js : List Nat) : List (Nat × Nat) := js.map fun j => (2048 * src 0 + j * w, w)
  match e.slot.instr with
  | .vcvt _ _ _ _ t _ _ => all (h.count * cvtSrcWidth h.ty t)
  | .vreq _ _ _ _ t _ _ _ => all (h.count * (reqSrcWidth h.ty t).getD 0)
  | .vcopy _ _ _ => all 2048
  | .vins _ _ _ _ _ => []
  | .vextr _ _ b _ _ => picked [(s.me.r.getS b).toNat]
  | .vbcast _ _ b _ _ =>
    let y := s.me.r.getS b
    picked ((List.range h.count).map (bcastIx h (y.getLsbD 16) (bits y.toNat 11 0)))
  | .vperm _ _ _ _ _ => (2048 * src 1, 2 * h.count) :: picked ((s.indices (src 1)).filter fun j => decide (j < h.count))
  | .vgath _ _ _ _ _ => (2048 * src 1, 2 * h.count) :: picked (s.indices (src 1))
  | .vscat _ _ _ _ _ => [(2048 * src 0, w * h.count), (2048 * src 1, 2 * h.count)]
  | _ => all (h.count * w)

/-- R368, R429: live V slots that read words of wrong parity. -/
def State.parityReads (s : State) (es : List Seen) : State :=
  if s.myCore.badWords.isEmpty then s
  else
    (es.filter fun e => e.live && e.counted && e.slot.pos.toNat < 4).foldl (fun s e =>
      s.parityRead s.cur.core s.cur.ctx e.spans) s

/-- R43, R144: an access of a strongly-ordered page took effect among the slots. -/
def commits (es : List Seen) : Bool := es.any fun e => e.live && e.ordered

/-- R89 step 3: the slots have taken effect; the first live one that stops ends the bundle. The bundle then completes; one
with a strongly-ordered access that is not nullified commits (R43, R144), also where a slot to the right of that access ends the
bundle. The V slots that took effect pay their bank conflicts (R62), also then. -/
def State.completeBundle (s : State) (es : List Seen) : State :=
  let h (e : Seen) : Nat := if e.live && e.counted then energyOf e.before.shape e.slot.pos e.slot.instr else 0
  let commit (done : List Seen) (t : State) : State :=
    if commits done && t.me.cm.phase == .idle && t.me.opened then t.beginCommit t.cur.core t.cur.ctx else t
  match es.find? fun e => e.live && e.counted && e.stopped with
  | some e =>
    let t := if e.out.cur.stop = .going then e.out.modCur fun u => { u with stop := .left } else e.out
    let left := es.takeWhile fun f => f.slot.pos != e.slot.pos
    commit left (((t.parityReads left).stall (bankStall (bankSlabs left))).finish (1 + (left.map h).sum + h e))
  | none =>
    let t := match es.getLast? with
      | some e => e.next false
      | none => s
    commit es (((t.parityReads es).stall (bankStall (bankSlabs es))).finishBy
      (if commits es then State.moveOnCommits else State.moveOn) (1 + (es.map h).sum))

/-- R25: the bundle blocks: what its slots wait for is set going. -/
def State.blockOn (s : State) (es : List Seen) : State := es.foldl State.setGoing s

/-- The issue itself: the slots take effect. An empty bundle is a step of its own (R79). -/
def State.issueNow (s : State) (b : Bundle) (es : List Seen) : State :=
  if b.slots.isEmpty then outState (exec (.emptyBundle b.hdr.rs b.hdr.cgn b.hdr.cg) s) s
  else s.completeBundle es

/-- R390: a suppressed match clears BPSKIP. -/
def State.bpUsed (s : State) (used : Bool) (c : CoreId) (x : CtxId) : State :=
  if used then s.modCtx c x fun v => { v with tr := { v.tr with tcause := v.tr.tcause &&& ~~~0x20000 } } else s

/-- A decoded bundle: s0 is the state before it, s the state with its region open. The result tells whether it issued. -/
def State.issueSlots (s0 s : State) (b : Bundle) : Bool × State :=
  let first := (s.me.reslot).getD 0
  let now := s.me.names
  let es := s.seeAll (if first = 0 then now else now.over s.me.tr.overlay) now [] first s.me.r.p b.slots
  let ordered := es.any Seen.ordered
  if !pairsOk es then (true, (s.trapBundle .illegalBundle).finish 1)
  else if es.any Seen.blocks then (false, s0.blockOn es)
  else if ordered && s0.me.opened then (false, s0.beginCommit s0.cur.core s0.cur.ctx)
  else if s.bpMatch && !s.me.bpSkips s.cur.addr then (true, (s.trapBundle .hwBreakpoint).finish 1)
  else if first ≠ 0 && b.slots.all (fun sl => decide (sl.pos < first)) then (true, s.moveOn.bpUsed s.bpMatch s.cur.core s.cur.ctx)
  else if es.any (fun e => e.heldBack || e.pipeBusy) then (true, s0.spend 1 0)
  else if first = 0 && s.straddles b.hdr.bytes then (true, (s.trapBundle .illegalOperand).finish 1)
  else (true, (s.issueNow b es).bpUsed s.bpMatch s.cur.core s.cur.ctx)

/-- The state with the bundle at the pc about to issue: its region open (R37), its record started. -/
def State.startBundle (s : State) (h : Header) : State :=
  let v := s.me
  s.startRegion.modCur fun u => u.start v h.bytes (h.pres == 0x80 && h.rs)

/-- The predicates that the common guard is read from: those of the overlay where a bundle is re-entered behind its first
slot (R387). -/
def Ctx.guardP (v : Ctx) : BitVec 16 :=
  if v.reslot.getD 0 = 0 then v.r.p else ((assoc v.tr.overlay (0xC0 : Byte)).map fun w => w.setWidth 16).getD v.r.p

/-- R87, R387: the common guard of the bundle is false. -/
def Ctx.passesOver (v : Ctx) (h : Header) : Bool := h.cg != 0 && ({ v.r with p := v.guardP }.getP h.cg) == h.cgn

/-- R37: the open region commits before the bundle. -/
def Ctx.endsRegion (v : Ctx) (h : Header) : Bool := v.reslot.isNone && (h.rs || v.rsDue) && v.opened

/-- One bundle of the issuing context: whether it issued, and the state after it. Where an RS bit stands on an illegal bundle,
the open region commits before the bundle is checked; R91 does not say which comes first (DESIGN CHOICE, log 35). -/
def State.issue (s : State) : Bool × State :=
  let (bs, s) := s.fetch
  let ws := wordsOf bs
  let h := Header.ofWord (ws.headD 0)
  if s.me.passesOver h then (true, outState (exec (.bundleSkip (h.rs && s.me.reslot.isNone) h.cg (BitVec.ofNat 6 h.bytes)) s) s)
  else if s.me.endsRegion h then (false, outState (exec .implicitRegionCommit s) s)
  else
    let t := s.startBundle h
    match decodeBundle ws with
    | .error _ => (true, (t.trapBundle .illegalBundle).finish 1)
    | .ok b =>
      if crossesHalf s.me.r.pc h.bytes then (true, (t.trapBundle .illegalBundle).finish 1)
      else s.issueSlots t b

/-! ### X operations after their commit (R37, R224) -/

/-- The record of a bundle whose X operation goes on. -/
def Cur.resume (u : Cur) (f : Inflight) : Cur :=
  { u with pos := 7, addr := f.addr, next := f.next, br := f.br, overlay := f.overlay, stop := .going, cost := 0, late := 0
           isolated := true }

/-- The X operation in flight is performed after its commit. While it waits its context may park at a barrier (R333). -/
def State.resumeOp (s : State) (f : Inflight) : Bool × State :=
  let c := s.cur.core
  let x := s.cur.ctx
  let s := s.modCur fun u => u.resume f
  let t := outState (exec f.instr s) s
  match t.cur.stop with
  | .going => (true, t.moveOnCommits.afterPoint c x)
  | .blocked => (false, if (t.ctxAt c x).waitCast.isSome && t.preemptible c x then t.parkCtx c x .preempt else t)
  | .trapped => (true, t.spend (1 + t.cur.cost) 0)
  | .left => (true, t)

end Sys2Proof.Machine
end

