-- ==== Sys2Proof/WellFormed.lean ====
section
/-! DEFINITION. WellFormed.lean: the checks on one step as syntax: operand combinations that the types admit
and the spec's encodings or message formats do not. -/

namespace Sys2Proof

/-- R87: a header with CG.N = 1 and CG = 0 names no common guard. -/
def wfGuard (cgn : Bool) (cg : PReg) : Bool := !(cgn && cg == 0)

/-- R146: bits [1:0] of a long branch displacement are zero. -/
def wfBranch (i : Imm) : Bool :=
  match i with
  | .short _ => true
  | .long w => w.extractLsb' 0 2 == 0

/-- R150: a loop body is not empty. -/
def wfLoopLen (l : LoopLen) : Bool :=
  match l with
  | .short n => n != 0
  | .long n => n != 0

/-- R299: requester numbers run from 0 to 514. -/
def wfRq (rq : Rq) : Bool := decide (rq.toNat ≤ 514)

/-- Lines are numbered by PA[47:6] (R257). -/
def wfLine (line : Nat) : Bool := decide (line < 2 ^ 42)

def wfReq (r : Req) : Bool := wfRq r.rq && wfLine r.line

/-- R295, R296, R300: 1 to 256 tokens; data goes with the owner token, and the dirty bit too. -/
def wfTokens (count : Nat) (owner dirty data : Bool) : Bool :=
  decide (1 ≤ count) && decide (count ≤ 256) && (!owner || data) && (!dirty || owner)

/-- R79: a bundle is 4 to 36 bytes long, in words. -/
def wfBytes (n : BitVec 6) : Bool := decide (4 ≤ n.toNat) && decide (n.toNat ≤ 36) && decide (n.toNat % 4 = 0)

/-- Well-formedness of a step. -/
def wellFormed (i : Instr) : Bool :=
  match i with
  | .emptyBundle _ cgn cg => wfGuard cgn cg
  | .bundleSkip _ cg bytes => cg != 0 && wfBytes bytes
  | .ld _ _ size sx _ _ => !(sx && size == 3)
  | .bri off => wfBranch off
  | .calli _ off => wfBranch off
  | .loop _ _ len => wfLoopLen len
  | .loopp _ _ _ len => wfLoopLen len
  | .rd r _ => wfReq r && r.kind == .rd
  | .rdx r _ => wfReq r && r.kind == .rdx
  | .upg r held _ => wfReq r && r.kind == .upg && decide (held ≤ 256)
  | .cnv line rq => wfLine line && wfRq rq
  | .fwd r _ => wfReq r
  | .tok m => wfLine m.line && wfRq m.rq && wfTokens m.count m.owner m.dirty (m.data || !m.owner)
      && (!m.owner || m.data)
  | .cfl line m => wfLine line && wfRq m.rq && wfRq m.dst
  | .rtn line _ => wfLine line
  | .done line rq => wfLine line && wfRq rq
  | .wb line count owner dirty => wfLine line && wfTokens count owner dirty true
  | .wbWritePosted line => wfLine line
  | .preq r => wfReq r
  | .pact r _ _ => wfReq r
  | .pdone line rq => wfLine line && wfRq rq
  | .prel m => wfLine m.line
  | .persistentConversion line rq => wfLine line && wfRq rq
  | .persistentTimeout m => wfLine m.line
  | .tokenRecreationComplete m => wfLine m.line
  | .patrolScrub line _ => wfLine line
  | .hostCxlMemRead line => wfLine line
  | .hostCxlMemWrite line _ _ => wfLine line
  | .cxlCacheSnoop line _ => wfLine line
  | .failoverTokenSweep line => wfLine line
  | _ => true

end Sys2Proof
end

