-- ==== Sys2Proof/Machine/Turn.lean ====
section
/-! DEFINITION. Machine/Turn.lean: turns: a core's turn (R24 to R26), what the part does of itself, and the turn order
(log 1). -/

namespace Sys2Proof.Machine

/-! ### A core's engines and results -/

/-- R368: reports that are due arrive. -/
def State.dueReports (s : State) (c : CoreId) : State :=
  let k := s.coreAt c
  (k.reports.filter fun r => decide (r.due ≤ k.cycle)).foldl (fun s r =>
    if (s.coreAt c).reports.contains r then s.deliverReport c r else s) s

/-- A commit that no X operation and no other turn waits for is over: R48 and R236 apply. -/
def State.closeCommit (s : State) (c : CoreId) (x : CtxId) : State :=
  let v := s.ctxAt c x
  if v.cm.phase = .done ∧ v.infl = none ∧ v.after = .none ∧ v.occ = .running then
    (s.modCtx c x fun v => { v with cm := CommitState.idle }).afterPoint c x
  else s

/-- R193, R262: the tensor-table entries that have come are in the port's cache. -/
def State.landEntries (s : State) (c : CoreId) : State :=
  let k := s.coreAt c
  ((k.teFetch.filter fun f => decide (f.2 ≤ k.cycle)).foldl (fun s f => s.modCore c fun k => k.teUse f.1) s).modCore c fun k =>
    { k with teFetch := k.teFetch.filter fun f => !decide (f.2 ≤ k.cycle) }

/-- Everything of a core but its issue. What the engines meet in a cycle comes before a report of that cycle, which then counts and
rolls back once (R391), and both before the end of a horizon wait (R369). -/
def State.engines (s : State) (c : CoreId) : State :=
  let s := if (s.coreAt c).teFetch.isEmpty then s else s.landEntries c
  let s := allCtxs.foldl (fun s x => if (s.ctxAt c x).recs.isEmpty then s else s.retryPins c x) s
  let s := if (s.coreAt c).matQ.isEmpty then s else s.matTurn c (4 * (s.coreAt c).matQ.length)
  let s := s.tileTurn c
  let s := allCtxs.foldl (fun s x => s.landDue c x (s.ctxAt c x).pend.length) s
  let s := s.dueReports c
  let s := allCtxs.foldl (fun s x => outState (exec (.horizonWaitEnd c x) s) s) s
  let s := s.retryCommits c
  let s := allCtxs.foldl (fun s x => s.closeCommit c x) s
  (allCtxs.foldl (fun s x => s.retirePark c x) s).modCore c fun k => { k with seen := k.cycle }

/-! ### The context that issues (R24, R26) -/

/-- R399: guarded attempts under way. -/
def State.guardedNow (s : State) : Nat :=
  (s.cores.toList.map fun k => (k.ctxs.toList.filter fun v => v.guarded && (v.opened || !v.guardLines.isEmpty)).length).sum

/-- R399, R400: the context waits before its bundle. -/
def State.heldOff (s : State) (c : CoreId) (x : CtxId) : Bool :=
  (s.coreAt c).soloBlocks x || ((s.ctxAt c x).guarded && !(s.ctxAt c x).opened && (s.ctxAt c x).guardLines.isEmpty && decide (8 ≤ s.guardedNow))

/-- A context tries to go on: its X operation after a commit, or its next bundle. -/
def State.tryCtx (s : State) (c : CoreId) (x : CtxId) : Bool × State :=
  let s := s.modCur fun _ => Cur.idle c x
  let v := s.ctxAt c x
  if v.occ ≠ .running ∨ v.halted then (false, s)
  else
    match v.cm.phase with
    | .done =>
      match v.infl with
      | some f =>
        if v.waitCast.isSome then (false, if s.preemptible c x then s.parkCtx c x .preempt else s) else s.resumeOp f
      | none => (false, s)
    | .idle => if s.heldOff c x then (false, s) else s.issue
    | _ => (false, s)

/-- The first context of a list that can issue. -/
def State.tryList (s : State) (c : CoreId) : List CtxId → Bool × State
  | [] => (false, s)
  | x :: rest =>
    match s.tryCtx c x with
    | (true, s) => (true, s.modCore c fun k => { k with lastCtx := x })
    | (false, s) => s.tryList c rest

/-- R24, R26: the contexts in the order they may issue. After a cycle in which none issued, R24 names no context that the
order starts from: the last issuer is tried first then too (DESIGN CHOICE, log 33). -/
def Core.order4 (k : Core) : List CtxId :=
  if k.timed then (k.segmentCtx).toList else [k.lastCtx, k.lastCtx + 1, k.lastCtx + 2, k.lastCtx + 3]

/-- R328: accumulated debits are reported every 128 cycles. -/
def State.debitTurn (s : State) (c : CoreId) : State :=
  if (s.coreAt c).lastDebit + 128 ≤ (s.coreAt c).cycle then outState (exec (.debitReport c) s) s else s

/-- A core's turn: its engines, then one bundle or X operation, or an idle cycle. -/
def State.coreTurn (s : State) (c : CoreId) : State :=
  if !(s.coreAt c).ready then s
  else
    let s := s.engines c
    let s := match s.tryList c (s.coreAt c).order4 with
      | (true, s) => s
      | (false, s) => s.modCore c fun k => { k with cycle := k.cycle + 1 }
    (s.debitTurn c).modCur fun _ => Cur.idle c 0

/-! ### What the part does of itself (log 1) -/

/-- The step of the first of a list for which it is due. -/
def firstOf {α : Type} (l : List α) (p : α → Bool) (f : α → Out) : Option Out := (l.find? p).map f

/-- The cores that have something to do. -/
def Core.active (k : Core) : Bool := k.ready && (k.order.isSome || k.ctxs.toList.any fun v => v.occ != .free)

def State.activeCores (s : State) : List CoreId := allCores.filter fun c => (s.coreAt c).active

/-- A step that a condition of the spec makes due, if there is one. -/
def State.internalStep (s : State) : Option Out :=
  let cs := s.activeCores
  let xs := cs.flatMap fun c => allCtxs.map fun x => (c, x)
  [ firstOf cs s.abortDue fun c => execScanAbort c s
  , if s.toutDue then some (execTimedOutputFire s) else none
  , if s.dev.tb.slewTo = some 0 then some (execTimeSlewEnd s) else none
  , firstOf [false, true] (fun d => (s.placement d).1) fun d => execTaskPlacement d s
  , firstOf xs (fun p => s.canResume p.1 p.2) fun p => execTaskResume p.1 p.2 s
  , firstOf xs (fun p => s.waiterDone p.1 p.2) fun p => execBarrierWaiterRelease p.1 p.2 s
  , firstOf cs s.timingDue fun c => execTimingTrap c s
  , firstOf cs s.slotOver fun c => execSegmentSlotEnd c s
  , firstOf cs s.segmentDue fun c => execSegmentStart c s
  , firstOf allCores s.retiredNow fun c => execCoreEnterWings c s
  , s.jobDue.map fun j => .next (s.finishJob j)
  , s.strayRing.map fun n => .next (s.dropStray n)
  , firstOf s.coh.outs s.conversionDue fun o => execPersistentConversion o.req.line o.req.rq s ].findSome? id

/-! ### Turns -/

/-- The active core whose turn it is, from the focus on. -/
def State.turnCore (s : State) : Option CoreId :=
  let cs := s.activeCores
  match cs.find? fun c => decide (s.focus.toNat ≤ c.toNat) with
  | some c => some c
  | none => cs.head?

/-- R351: the clock of a core in MHz: a timed core keeps the nominal one. -/
def State.coreMhz (s : State) (c : CoreId) : Nat :=
  if (s.coreAt c).timed then Config.nominalMhz else (s.dieAt (dieOf c)).clockMhz

/-- R71, R351: n nominal cycles pass on a core in which nothing happens, of which one with a lower clock counts fewer. -/
def Core.idleFor (k : Core) (mhz n : Nat) : Core :=
  let lost := k.skew + n * (Config.nominalMhz - mhz)
  { k with cycle := k.cycle + (n - lost / Config.nominalMhz), skew := lost % Config.nominalMhz }

/-- R71, R338: u units of real time pass; a ready core counts their cycles also while its contexts are all FREE (log 10). The scans
that a READY task aborts end before (R418). -/
def State.pass (s : State) (u : Nat) : State :=
  let s := s.abortScans
  let n := u / Config.unitsPerCycle
  let s := if n = 0 then s
    else { s with cores := Vector.ofFn fun i =>
      if s.cores[i.val].ready && !s.cores[i.val].active then s.cores[i.val].idleFor (s.coreMhz (BitVec.ofNat 7 i.val)) n else s.cores[i.val] }
  s.advanceTime u

/-- A core's turn and the nominal cycles that it takes. What it falls behind the nominal clock by adds up (R351): once that makes one
of its own cycles, it loses its turn. -/
def State.clockedTurn (s : State) (c : CoreId) : Nat × State :=
  let mhz := s.coreMhz c
  if mhz ≤ (s.coreAt c).skew then (1, s.modCore c fun k => { k with skew := k.skew - mhz })
  else
    let t := s.coreTurn c
    let n := (t.coreAt c).cycle - (s.coreAt c).cycle
    (n, t.modCore c fun k => { k with skew := k.skew + n * (Config.nominalMhz - mhz) })

/-- The turn of the core in focus. TIME passes with the turns of the lowest numbered active core, or by one cycle where no
core is active (log 10). -/
def State.focusTurn (s : State) : State :=
  match s.turnCore with
  | none => s.pass Config.unitsPerCycle
  | some c =>
    let (n, t) := s.clockedTurn c
    let t := { t with focus := c + 1 }
    if s.activeCores.head? = some c then t.pass (n * Config.unitsPerCycle) else t

/-- The next message in flight arrives. -/
def State.netTurn (s : State) (m : Instr) (rest : List Instr) : Out := exec m (s.modCoh fun h => { h with net := rest })

/-- A turn that no input asks for. -/
def State.ownTurn (s : State) : Out :=
  match s.coh.net with
  | m :: rest => s.netTurn m rest
  | [] =>
    match s.internalStep with
    | some o => o
    | none => .next s.focusTurn

/-- R300: a message of token coherence, which only a holder, a requester or the home sends. -/
def isMessage : Instr → Bool
  | .rd _ _ | .rdx _ _ | .upg _ _ _ | .cnv _ _ | .fwd _ _ | .tok _ | .cfl _ _ | .rtn _ _ | .done _ _ | .wb _ _ _ _
  | .wbWritePosted _ | .preq _ | .pact _ _ _ | .pdone _ _ | .prel _ => true
  | _ => false

/-- R1, log 1: an input of the agenda: an event, well formed and no instruction of a bundle, or a core's turn. A message arrives
when it is in flight. -/
def State.act (s : State) (a : Act) : Out :=
  match a with
  | .event i =>
    if isMessage i then
      if s.coh.net.contains i then s.netTurn i (s.coh.net.erase i) else .next s
    else if wellFormed i && !isSlot i then exec i s else .next s
  | .core c => .next (s.coreTurn c)

/-- The next turn. -/
def State.turn (s : State) : Out :=
  match s.agenda with
  | t :: rest => (({ s with agenda := rest }).pass t.units).act t.act
  | [] => s.ownTurn

/-- A program's first turn: core 0 with a task in context 0, whose bytes at the pc are the given ones, and core 0's turn
next. -/
def State.withText (s : State) (bs : List Byte) : State :=
  let s := { s with agenda := [⟨0, .core 0⟩] }
  s.modCore 0 fun k =>
    { k with
      ready := true, timed := false, lastCtx := 0
      scratch := cellWrite k.scratch (k.ctxAt 0).r.pc.toNat bs
      ctxs := k.ctxs.set 0 { k.ctxAt 0 with occ := .running, stale := [], halted := false, cm := CommitState.idle, reslot := none } }

end Sys2Proof.Machine
end

