-- ==== Sys2Proof/Machine/Step.lean ====
section
/-! DEFINITION. Machine/Step.lean: one step of the machine, and the placing of an instruction where it is fetched
next. -/

namespace Sys2Proof.Machine

/-- One step: a stopped device has none (R376); otherwise the next turn (log 1). -/
def step (s : State) : Host.Outcome State Fault Refusal := if s.dev.sharedStop then .fault .deviceStopped else s.turn

/-- The state with the instruction of the given bits stored where core 0 fetches next, in the words' byte order (R4,
R78), and nothing before its turn (log 1). -/
def State.withFetchWord (s : State) (_nbits w : Nat) : State := s.withText (leBytes 36 w)

end Sys2Proof.Machine
end

