-- ==== Sys2Proof/Safety.lean ====
section
/-! DEFINITION. Safety.lean: the terms that claims are stated in: what an instruction leaves as it was, what a
result of each form leaves behind, where an exception goes, and the invariant of the machine. -/

namespace Sys2Proof.Machine

/-! ### Reading the machine -/

/-- The byte at a physical address. -/
def State.byteAt (s : State) (a : Nat) : Byte := cellGet s.mem a

/-- R67: the scalar source n is full, so it neither blocks nor traps. -/
def State.FullS (s : State) (n : SReg) : Prop := s.me.r.isEmptyS n = false

/-- The value of a scalar source. -/
def State.valS (s : State) (n : SReg) : Word := s.me.r.getS n

/-- R53, R67: the field f names slab q of the partition, and the slab is full. -/
def State.FullV (s : State) (f : VField) (q : Nat) : Prop :=
  s.me.slab f = q ∧ q < s.myPart ∧ s.me.slabEmpty.contains q = false

/-- R53: the field f names slab q of the partition. -/
def State.NamesV (s : State) (f : VField) (q : Nat) : Prop := s.me.slab f = q ∧ q < s.myPart

/-- R63: the field f names an even slab q whose pair lies within the partition. -/
def State.NamesPair (s : State) (f : VField) (q : Nat) : Prop := s.me.slab f = q ∧ q % 2 = 0 ∧ q + 1 < s.myPart

/-- A pair whose slabs are full. -/
def State.FullPair (s : State) (f : VField) (q : Nat) : Prop :=
  s.NamesPair f q ∧ s.me.slabEmpty.contains q = false ∧ s.me.slabEmpty.contains (q + 1) = false

/-- R123: no enabled exception can make a floating-point instruction precise. -/
def State.Imprecise (s : State) : Prop := s.me.r.ten = 0

/-! ### What stays as it was -/

/-- Everything but core c, and the record of the bundle being issued, is as it was: every byte of memory, every
table and queue of the device, every other core. -/
structure OnlyCore (c : CoreId) (s t : State) : Prop where
  rest : { t with cores := s.cores, cur := s.cur } = s
  cores : ∀ c', c' ≠ c → t.coreAt c' = s.coreAt c'
  bytes : ∀ a, t.byteAt a = s.byteAt a

/-- Everything but context x of core c, and the record of the bundle being issued, is as it was. -/
structure OnlyCtx (c : CoreId) (x : CtxId) (s t : State) : Prop extends OnlyCore c s t where
  core : { t.coreAt c with ctxs := (s.coreAt c).ctxs } = s.coreAt c
  ctxs : ∀ x', x' ≠ x → t.ctxAt c x' = s.ctxAt c x'

/-- Only the issuing context changes, and of the record of its bundle the overlay at most. -/
structure OnlyMe (s t : State) : Prop extends OnlyCtx s.cur.core s.cur.ctx s t where
  cur : { t.cur with overlay := s.cur.overlay } = s.cur

/-- Only the issuing core changes, its contexts but for the issuing one stay, and of the record of the bundle the overlay
at most changes. -/
structure OnlyMyCore (s t : State) : Prop extends OnlyCore s.cur.core s t where
  ctxs : ∀ x', x' ≠ s.cur.ctx → t.ctxAt s.cur.core x' = s.ctxAt s.cur.core x'
  cur : { t.cur with overlay := s.cur.overlay } = s.cur

/-- What the translation of an access may change beside the issuing core: the translation caches and the L2 of the dies, and,
with a line that an L2 gives up or a token that is asked for, the coherence state (R40, R251, R262, R265). No byte of memory
changes, no other core, no other context of the core, and of the record of the bundle the overlay at most. Free values may be
drawn (log 9). -/
structure OnlyReach (s t : State) : Prop where
  rest : { t with cores := s.cores, coh := s.coh, dies := s.dies, cur := s.cur, free := s.free } = s
  dies : ∀ d, { t.dieAt d with l2 := (s.dieAt d).l2, dtlb := (s.dieAt d).dtlb, walks := (s.dieAt d).walks } = s.dieAt d
  coh : { t.coh with lines := s.coh.lines, net := s.coh.net, outs := s.coh.outs, ut := s.coh.ut } = s.coh
  bytes : ∀ a, t.byteAt a = s.byteAt a
  cores : ∀ c, c ≠ s.cur.core → t.coreAt c = s.coreAt c
  ctxs : ∀ x, x ≠ s.cur.ctx → t.ctxAt s.cur.core x = s.ctxAt s.cur.core x
  cur : { t.cur with overlay := s.cur.overlay } = s.cur

/-- What a store or a load may change outside the issuing context: beside what its translation may, its core's debits and
translation caches, and the lines that its L1D holds (R40, R262, R264). -/
structure OnlyAccess (s t : State) : Prop extends OnlyReach s t where
  core : { t.myCore with
    ctxs := s.myCore.ctxs, debits := s.myCore.debits, tlb := s.myCore.tlb, teCache := s.myCore.teCache
    l1d := s.myCore.l1d } = s.myCore

/-- Every scalar register but the one that d names keeps its value and its state (R65, R70). -/
structure OtherScalars (s t : State) (d : SReg) : Prop where
  plain : ∀ n, n ≠ d ∨ s.me.r.isShadow d = true →
    t.me.r.getAt false n = s.me.r.getAt false n ∧ t.me.r.emptyAt false n = s.me.r.emptyAt false n
  shadow : ∀ n : SReg, 56 ≤ n.toNat → n ≠ d ∨ s.me.r.isShadow d = false →
    t.me.r.getAt true n = s.me.r.getAt true n ∧ t.me.r.emptyAt true n = s.me.r.emptyAt true n

/-! ### Results (R65, R92) -/

/-- A write of one cycle with no earlier write outstanding: v is there for the next slot, nothing else changes. A write to
s0 changes nothing at all (R52). -/
structure Wrote (s t : State) (d : SReg) (v : Word) : Prop extends OnlyMe s t, OtherScalars s t d where
  value : d ≠ 0 → t.valS d = v
  full : t.FullS d
  zero : d = 0 → t = s
  regs : { t.me.r with s := s.me.r.s, sEmpty := s.me.r.sEmpty, sh := s.me.r.sh, shEmpty := s.me.r.shEmpty } = s.me.r
  ctx : { t.me with r := s.me.r } = s.me

/-- A result that lands later: d is empty, and the result with its value, its flags and the cycle of its landing is
outstanding. -/
structure Queued (s t : State) (d : SReg) (v : Word) (lat : Nat) (fp : Bool) (fl : Flags) : Prop
    extends OnlyMe s t, OtherScalars s t d where
  empty : d ≠ 0 → ¬ t.FullS d
  late : ∃ due, due = max (s.now + lat) (s.me.sregAfter (s.me.r.isShadow d) d) ∧
    t.me.pend = s.me.pend ++
      [⟨s.me.seq, due, due, s.me.region, s.cur.pos, s.cur.addr, fp, fl, .sreg (s.me.r.isShadow d) d v⟩]
  order : t.me.seq = s.me.seq + 1
  regs : { t.me.r with s := s.me.r.s, sEmpty := s.me.r.sEmpty, sh := s.me.r.sh, shEmpty := s.me.r.shEmpty } = s.me.r
  ctx : { t.me with r := s.me.r, pend := s.me.pend, seq := s.me.seq } = s.me

/-- R92: what writing v to d with latency lat leaves: at once, or outstanding; a write to s0 that raises no flag
leaves nothing. -/
def Writes (s t : State) (d : SReg) (v : Word) (lat : Nat) (fp : Bool) (fl : Flags) : Prop :=
  if lat ≤ 1 ∧ s.me.sregPending (s.me.r.isShadow d) d = false then Wrote s t d v
  else if d = 0 ∧ fl = 0 then t = s
  else Queued s t d v lat fp fl

/-- A predicate written with latency 1; p0 discards the write (R52). -/
structure WrotePred (s t : State) (d : PReg) (v : Bool) : Prop extends OnlyMe s t where
  value : d ≠ 0 → t.me.r.getP d = v
  others : ∀ p, p ≠ d → t.me.r.getP p = s.me.r.getP p
  zero : d = 0 → t = s
  regs : { t.me.r with p := s.me.r.p } = s.me.r
  ctx : { t.me with r := s.me.r, predAge := s.me.predAge } = s.me

/-- R53, R55, R56: every index register that a field of the slot post-increments has moved on, the others stay. -/
def Stepped (s t : State) (fields : List VField) : Prop :=
  ∀ j, t.me.r.getIx j = if (incsOf fields).contains j then ixNext (s.me.r.getIx j) else s.me.r.getIx j

/-- R65, R92: a slab result: the destinations are empty until the bytes land, with their flags, in the cycle given. -/
structure SlabQueued (s t : State) (fields : List VField) (ds : List Nat) (data side : List Host.Cell) (lat : Nat)
    (fp : Bool) (fl : Flags) : Prop extends OnlyMyCore s t where
  late : ∃ due, due = max (s.now + lat)
      (s.me.pend.foldl (fun m p => if p.writes.any fun q => ds.contains q then max m (p.due + 1) else m) 0) ∧
    t.me.pend = s.me.pend ++ [⟨s.me.seq, due, due, s.me.region, s.cur.pos, s.cur.addr, fp, fl, .slab ds data side⟩]
  order : t.me.seq = s.me.seq + 1
  empty : ∀ q, t.me.slabEmpty.contains q = (s.me.slabEmpty.contains q || ds.contains q)
  index : Stepped s t fields
  regs : { t.me.r with ix := s.me.r.ix } = s.me.r
  ctx : { t.me with r := s.me.r, pend := s.me.pend, seq := s.me.seq, slabEmpty := s.me.slabEmpty } = s.me

/-- R161: of the core's own fields only the pipe of the slot changes: it is taken for occ cycles. -/
def PipeTaken (s t : State) (occ : Nat) : Prop :=
  t.myCore.vfree = s.myCore.vfree.set (pipeIx s.cur.pos).val
      (max s.now s.myCore.vfree[(pipeIx s.cur.pos).val] + occ) ∧
    { t.myCore with ctxs := s.myCore.ctxs, vfree := s.myCore.vfree } = s.myCore

/-- A slab result of the V pipes. -/
def VecQueued (s t : State) (fields : List VField) (ds : List Nat) (data side : List Host.Cell) (lat occ : Nat)
    (fp : Bool) (fl : Flags) : Prop :=
  SlabQueued s t fields ds data side lat fp fl ∧ PipeTaken s t occ

/-! ### Exceptions (R384, R385) -/

/-- A handler is installed and no other is being run, so that an exception is taken (R384). -/
def State.CanTrap (s : State) : Prop := s.me.tr.installed = true ∧ s.me.r.active = false

/-- R384, R385: the exception with the code of e is taken at the slot being executed: slot-precise, its bundle's address
saved in TEPC, STATUS in TSTATUS, the branch word in TVAL, the slot in TCAUSE; MODE 1, UIEN 0, ACTIVE 1 and the pc
at the handler. No scalar register, predicate, mask, index register, slab or byte of memory changes. -/
structure TookTrap (s t : State) (e : Exc) (val : Word) : Prop extends OnlyCtx s.cur.core s.cur.ctx s t where
  pc : t.me.r.pc = s.me.tr.tvec.extractLsb' 0 16
  mode : t.me.r.mode = true
  uien : t.me.r.uien = false
  active : t.me.r.active = true
  tepc : t.me.tr.tepc = s.cur.addr.setWidth 64
  tstatus : t.me.tr.tstatus = statusOf s.myCore s.me
  tval : t.me.tr.tval = val
  code : t.me.tr.tcause.extractLsb' 0 8 = e.code
  slot : t.me.tr.tcause.extractLsb' 8 3 = s.cur.pos
  vec : t.me.tr.tvec = s.me.tr.tvec
  regs : { t.me.r with pc := s.me.r.pc, mode := s.me.r.mode, uien := s.me.r.uien, active := s.me.r.active } = s.me.r
  gate : t.me.gate = s.me.gate
  pend : t.me.pend = s.me.pend
  cut : t.cur.stop = .trapped

/-- R42, R379, R385: a trapped rollback of the open region: the checkpoint's registers come back, the gate, the records
and the region's outstanding results are gone, no byte of memory changes, and the handler is entered with TEPC at the
region's first bundle. -/
structure RolledBackTrap (s t : State) (e : Exc) (val : Word) : Prop where
  bytes : ∀ a, t.byteAt a = s.byteAt a
  regs : { t.me.r with pc := s.me.ckpt.pc, mode := s.me.ckpt.mode, uien := s.me.ckpt.uien, active := s.me.ckpt.active }
    = s.me.ckpt
  gate : t.me.gate = []
  recs : t.me.recs = []
  pend : t.me.pend = s.me.pend.filter fun p => p.region != s.me.region
  closed : t.me.opened = false
  pc : t.me.r.pc = s.me.tr.tvec.extractLsb' 0 16
  mode : t.me.r.mode = true
  uien : t.me.r.uien = false
  active : t.me.r.active = true
  tepc : t.me.tr.tepc = s.me.ckpt.pc.setWidth 64
  tval : t.me.tr.tval = val
  code : t.me.tr.tcause.extractLsb' 0 8 = e.code
  cut : t.cur.stop = .trapped

/-! ### What an instruction does -/

/-- The instruction answers a next state t with the property P. -/
def Does (i : Instr) (s : State) (P : State → Prop) : Prop := ∃ t, exec i s = .next t ∧ P t

/-- The instruction writes v to the scalar register d with latency lat and nothing else (R92). -/
def Puts (i : Instr) (s : State) (d : SReg) (v : Word) (lat : Nat) : Prop := Does i s fun t => Writes s t d v lat false 0

/-- The instruction writes the predicate d and nothing else. -/
def PutsP (i : Instr) (s : State) (d : PReg) (v : Bool) : Prop := Does i s fun t => WrotePred s t d v

/-- The instruction takes the exception e at its slot (R384, R385), with the branch word as TVAL, and has no other effect. -/
def Traps (i : Instr) (s : State) (e : Exc) : Prop := Does i s fun t => TookTrap s t e s.branchWord

/-- The bundle waits: the instruction changes nothing but the record of the bundle (R25). -/
def Blocks (i : Instr) (s : State) : Prop := exec i s = .next (s.modCur fun u => { u with stop := .blocked })

/-- An array result of the V pipes: n elements of w bytes from the start of slab q, element k being f k. -/
def Yields (i : Instr) (s : State) (fields : List VField) (q w n : Nat) (f : Nat → Nat) (lat occ : Nat) (fp : Bool)
    (fl : Flags) : Prop :=
  ∃ t, exec i s = .next t ∧ VecQueued s t fields [q]
    (slabCells (s.myCore.slabAddr s.cur.ctx q) (elemBytes w ((List.range n).map f))) [] lat occ fp fl

/-- Element k of the current shape in slab q. -/
def State.elem (s : State) (q k : Nat) : Nat := (s.shapeElems q).getD k 0

/-- The flags of the elements 0 to n - 1 together. -/
def flagsUpTo (n : Nat) (g : Nat → FpOut) : Flags := (List.range n).foldl (fun f k => f ||| (g k).fl) 0

/-- R162: a scalar result of the V pipes: it lands three cycles after issue, and sD is empty until then. -/
structure ScalarFromV (s t : State) (fields : List VField) (d : SReg) (v : Word) (fp : Bool) : Prop
    extends OnlyMyCore s t, OtherScalars s t d where
  late : d ≠ 0 → ¬ t.FullS d ∧ ∃ due, due = max (s.now + 3) (s.me.sregAfter (s.me.r.isShadow d) d) ∧
    t.me.pend = s.me.pend ++
      [⟨s.me.seq, due, due, s.me.region, s.cur.pos, s.cur.addr, fp, 0, .sreg (s.me.r.isShadow d) d v⟩]
  zero : d = 0 → t.me.pend = s.me.pend
  index : Stepped s t fields
  pipe : PipeTaken s t 1

/-- A mask written at once: mask d holds f below E and zero above it; the other masks, the scalar registers and the
predicates keep their values (R52, R54). -/
structure MaskWrote (s t : State) (fields : List VField) (d : KReg) (f : Nat → Bool) (occ : Nat) : Prop where
  value : d ≠ 0 → ∀ i, i < 2048 → (t.me.r.getK d).getLsbD i = (decide (i < s.shape.count) && f i)
  discarded : d = 0 → t.me.r.k = s.me.r.k
  others : ∀ k, k ≠ d → t.me.r.getK k = s.me.r.getK k
  scalars : t.me.r.s = s.me.r.s ∧ t.me.r.sEmpty = s.me.r.sEmpty ∧ t.me.r.p = s.me.r.p ∧ t.me.r.pc = s.me.r.pc
  index : Stepped s t fields
  pipe : PipeTaken s t occ
  results : t.me.pend = s.me.pend ∧ t.me.gate = s.me.gate ∧ t.me.slabEmpty = s.me.slabEmpty
  rest : { t with cores := s.cores, cur := s.cur } = s
  bytes : ∀ a, t.byteAt a = s.byteAt a

/-- R65, R205: a tile command has taken its entry: it holds its operands as they were at issue, it has the port for occ
cycles after the commands ahead of it, and the slabs it will write are empty. -/
structure TileQueued (s t : State) (fields : List VField) (op : TileOp) (d : Nat) (ds : List Nat) (td p1 p2 : Desc)
    (a b : Word) (occ : Nat) : Prop extends OnlyReach s t where
  cmd : ∃ m, t.myCore.tileQ = s.myCore.tileQ ++ [m] ∧ m.x = s.cur.ctx ∧ m.region = s.me.region ∧ m.pos = s.cur.pos ∧
    m.addr = s.cur.addr ∧ m.seq = s.me.seq ∧ m.op = op ∧ m.d = d ∧ m.td = td ∧ m.p1 = p1 ∧ m.p2 = p2 ∧
    m.occ = occ ∧ m.occEnd = max s.now s.myCore.tFree + occ ∧ m.occEnd ≤ m.due ∧ m.todo = none ∧
    m.c0 = a.toNat % 2 ^ 32 ∧ m.c1 = a.toNat / 2 ^ 32 ∧ m.c2 = b.toNat % 2 ^ 32 ∧ m.c3 = b.toNat / 2 ^ 32
  free : t.free = s.free
  port : t.myCore.tFree = max s.now s.myCore.tFree + occ
  order : t.me.seq = s.me.seq + 1
  empty : ∀ q, t.me.slabEmpty.contains q = (s.me.slabEmpty.contains q || ds.contains q)
  index : Stepped s t fields
  regs : { t.me.r with ix := s.me.r.ix } = s.me.r
  ctx : { t.me with r := s.me.r, seq := s.me.seq, slabEmpty := s.me.slabEmpty } = s.me
  core : { t.myCore with
    ctxs := s.myCore.ctxs, tileQ := s.myCore.tileQ, tFree := s.myCore.tFree, debits := s.myCore.debits
    tlb := s.myCore.tlb, teCache := s.myCore.teCache } = s.myCore

/-- R65, R208: a matrix command has taken its entry, with the matrix state as it stands, and the slabs it will write are
empty. -/
structure MatQueued (s t : State) (fields : List VField) (op : MatOp) (d a b : Nat) (ds : List Nat) : Prop
    extends OnlyMyCore s t where
  cmd : t.myCore.matQ = s.myCore.matQ ++ [⟨s.cur.ctx, s.me.region, s.me.seq, s.cur.addr, s.now, op, d, a, b, s.me.mx,
    none, 0, false, false, 0, 0, false⟩]
  order : t.me.seq = s.me.seq + 1
  empty : ∀ q, t.me.slabEmpty.contains q = (s.me.slabEmpty.contains q || ds.contains q)
  index : Stepped s t fields
  regs : { t.me.r with ix := s.me.r.ix } = s.me.r
  ctx : { t.me with r := s.me.r, seq := s.me.seq, slabEmpty := s.me.slabEmpty } = s.me
  core : { t.myCore with ctxs := s.myCore.ctxs, matQ := s.myCore.matQ, debits := s.myCore.debits } = s.myCore

/-- A source register is read before anything else of the instruction: an empty one blocks the bundle with mode bit 0 and raises the
empty-read exception with mode bit 1 (R67); i gives the instruction for a mode bit. -/
def ReadsFirst (s : State) (a : SReg) (i : Bool → Instr) : Prop :=
  ¬ s.FullS a → Blocks (i false) s ∧ (s.CanTrap → Traps (i true) s .emptyRead)

/-- Two source registers are read before anything else of the instruction, A before B (R67). -/
def ReadsFirst2 (s : State) (a b : SReg) (i : Bool → Bool → Instr) : Prop :=
  (∀ m, ReadsFirst s a fun ma => i ma m) ∧ (s.FullS a → ∀ m, ReadsFirst s b fun mb => i m mb)

/-- R40, R252, R296, R298: the bytes at keys can be read for core c: tracked, their lines not poisoned, each line with a
token in the access-table entry of the core and with valid data at the core for the access. -/
def State.Held (s : State) (c : CoreId) (use : ReadUse) (keys : List (Nat × PageKind)) : Prop :=
  ∀ k ∈ keys, k.2.isTracked = true ∧ lineOf k.1 ∉ s.coh.poison ∧ (s.lineAt (lineOf k.1)).ratHolds c = true ∧
    (s.lineAt (lineOf k.1)).dataFor c use = true

/-- R39: an access that reads the bytes at keys, and stores to those at ws, leaves the core within the amounts of the space rule. -/
def Core.HasRoom (k : Core) (keys : List (Nat × PageKind)) (ws : List Nat) : Prop :=
  k.gateUsed + (distinct ws).length ≤ Config.gateCore ∧ k.ratUsed + (trackedLines keys).length ≤ Config.ratCore

/-- R39, R40, R252, R399: the engine can read the bytes at keys for the command now: the command is of its context's region, there is room,
no line is still to be acquired, and the lines are held with their data. -/
def State.EngineReads (s : State) (c : CoreId) (m : TileCmd) (keys : List (Nat × PageKind)) : Prop :=
  m.region = (s.ctxAt c m.x).region ∧ (s.coreAt c).HasRoom keys [] ∧ s.spaceWaits c m.x false keys = false ∧ s.guardMissing c m.x (trackedLines keys) = [] ∧
    s.Held c .engine keys

/-- R224, R385: an operation exception: the commit stands, no region is open, the bundle is the resume point at its X
slot, and no register of the context but pc, MODE, UIEN and ACTIVE changes, no byte of memory. -/
structure TookOpTrap (s t : State) (e : Exc) (val : Word) : Prop extends OnlyCtx s.cur.core s.cur.ctx s t where
  regs : { t.me.r with pc := s.me.r.pc, mode := s.me.r.mode, uien := s.me.r.uien, active := s.me.r.active } = s.me.r
  pc : t.me.r.pc = s.me.tr.tvec.extractLsb' 0 16
  mode : t.me.r.mode = true
  active : t.me.r.active = true
  tepc : t.me.tr.tepc = s.cur.addr.setWidth 64
  tval : t.me.tr.tval = val
  code : t.me.tr.tcause.extractLsb' 0 8 = e.code
  slot : t.me.tr.tcause.extractLsb' 8 3 = 7
  kind : t.me.tr.tcause.extractLsb' 14 2 = 1
  closed : t.me.opened = false
  cm : t.me.cm = CommitState.idle
  infl : t.me.infl = none
  cut : t.cur.stop = .trapped

/-! ### Commit points (R37, R224) -/

/-- The commit before an X operation is done and nothing has stopped the bundle. -/
def State.Committed (s : State) : Prop := s.me.cm.phase = .done ∧ s.cur.stop = .going

/-- R37, R224: the commit of the region begins, with the instruction kept in flight. -/
def State.commitStarted (s : State) (i : Instr) : State :=
  ((s.modMe fun v => { v with infl := some ⟨i, s.cur.addr, s.cur.next, s.cur.br, s.cur.overlay, false, none, none⟩, skips := 0 }).beginCommit
    s.cur.core s.cur.ctx).modCur fun u => { u with stop := .left }

/-- After the commit the instruction is performed, with P of the state it leaves; then no region and no commit is open. -/
def Finishes (i : Instr) (s : State) (P : State → Prop) : Prop := ∃ t, exec i s = .next t.opDone ∧ P t

/-- After the commit the instruction writes v to d and does nothing else. -/
def FinishesPut (i : Instr) (s : State) (d : SReg) (v : Word) (lat : Nat) : Prop :=
  Finishes i s fun t => Writes s t d v lat false 0

/-- After the commit the instruction, having made the state u, writes v to d with latency lat. -/
def FinishesFrom (i : Instr) (s u : State) (d : SReg) (v : Word) (lat : Nat) : Prop :=
  ∃ t, exec i s = .next t.opDone ∧ Writes u t d v lat false 0

/-- The instruction raises the operation exception e with the branch word. -/
def OpTraps (i : Instr) (s : State) (e : Exc) : Prop := Does i s fun t => TookOpTrap s t e s.branchWord

/-! ### Memory (R39, R40, R92) -/

/-- The tensor addresses of an access of n bytes at the address in the scalar source a, with its offset (R141). -/
def State.accessOf (s : State) (a : SReg) (off : Option Word32) (n : Nat) : List Nat := accessAddrs (s.valS a) off n

/-- R231, R315: TSPAWN's read of the record at the tensor address a gives bs, none where it runs beyond its tensor, and leaves u;
what follows the read goes on from there. -/
def State.ReadsRecord (s : State) (a : Nat) (bs : Option (List Byte)) (u : State) : Prop :=
  ∀ k : Option (List Byte) → State → State, s.readRecord a k = k bs u

/-- R39: the core is within the amounts of the space rule. -/
def State.fits (s : State) : Prop := s.myCore.gateUsed ≤ Config.gateCore ∧ s.myCore.ratUsed ≤ Config.ratCore

/-! ### Host commands (R337 to R340) -/

/-- R337, R339: Wyane accepts commands, the ring is enabled and has no entry in progress, its turn has come, and the entry at its
head has this opcode and TAG and is well formed. -/
structure State.Offers (s : State) (cmd : Cmd) (op : Nat) : Prop where
  accepts : s.dev.funcReady.getLsbD 31 = true
  enabled : (s.ringAt cmd.ring).enable = true
  entry : (s.ringAt cmd.ring).head ≠ (s.ringAt cmd.ring).tail
  first : s.ringStarted cmd.ring = false
  turn : s.ringTurn cmd.ring = true
  header : cellNat s.mem ((s.ringAt cmd.ring).base.toNat + 64 * (s.ringAt cmd.ring).head) 8 = op + 2 ^ 16 * cmd.tag.toNat

/-- R340: the command completes with the STATUS and has no effect. -/
def Refuses (i : Instr) (cmd : Cmd) (s : State) (status : Nat) : Prop :=
  exec i s = .next ((s.takeEntry cmd).complete cmd status none)

/-- R339: the command completes with STATUS 0 and the RESULT, from the state u that its effect leaves. -/
def Performs (i : Instr) (cmd : Cmd) (s : State) (result : Option Word) (P : State → Prop) : Prop :=
  ∃ u, exec i s = .next (u.complete cmd 0 result) ∧ P u

/-- R339: the command is taken; it waits for j before it completes, and what it has done so far leaves u. -/
def Waits (i : Instr) (cmd : Cmd) (s u : State) (j : CmdJob) : Prop :=
  exec i s = .next (u.modDev fun d => { d with started := d.started ++ [⟨cmd, j⟩] })

/-- R263, R339: the command has its effect on the tables, that P tells of, at once. It completes with STATUS 0 at once where no
access translated under the old entries is under way, and then removes the untracked copies of the old leaves' lines that such
accesses may have left (R260); it waits for those accesses otherwise. -/
def Drains (i : Instr) (cmd : Cmd) (s : State) (id : Nat) (ls : List Leaf) (P : State → Prop) : Prop :=
  ∃ u, P u ∧ (u.usersDone (s.usersOf id ls) = true →
      exec i s = .next ((u.jobDo (.drain (s.usersOf id ls))).complete cmd 0 none)) ∧
    (u.usersDone (s.usersOf id ls) = false → Waits i cmd s u (.drain (s.usersOf id ls)))

/-- R263: Wyane has written tables and removed copies: every core keeps all but its translation caches and the lines of its
L1D, and the byte at an address for which p does not hold stays. -/
structure OnlyTables (s t : State) (p : Nat → Prop) : Prop where
  cores : ∀ c, { t.coreAt c with
    teCache := (s.coreAt c).teCache, teFetch := (s.coreAt c).teFetch, tlb := (s.coreAt c).tlb, l1d := (s.coreAt c).l1d } = s.coreAt c
  bytes : ∀ a, ¬ p a → t.byteAt a = s.byteAt a
  tasks : t.tasks = s.tasks

/-- R254: the bytes of the tensor table entry of an id. -/
def InDesc (id a : Nat) : Prop := descAddr id ≤ a ∧ a < descAddr id + 64

/-! ### Events of the device -/

/-- Only the coherence state of one line, the places that caches hold lines in, the home's directory cache, the messages in flight,
the unsatisfied requests and the arbiter may differ: no byte of memory, no register, no table. -/
structure OnlyLine (line : Nat) (s t : State) : Prop where
  rest : { t with coh := s.coh, cores := s.cores, dies := s.dies } = s
  lines : ∀ k, k ≠ line → t.lineAt k = s.lineAt k
  coh : { t.coh with lines := s.coh.lines, dir := s.coh.dir, net := s.coh.net, outs := s.coh.outs, arb := s.coh.arb } = s.coh
  cores : ∀ c, { t.coreAt c with l1d := (s.coreAt c).l1d } = s.coreAt c
  dies : ∀ d, { t.dieAt d with l2 := (s.dieAt d).l2 } = s.dieAt d

/-- Messages put in flight behind those that were there. -/
def Sends (s t : State) (ms : List Instr) : Prop := t.coh.net = s.coh.net ++ ms

/-- R296, R300: the TOK message that carries a holding, if it carries a token: with data when it has the owner token, or when
data is asked for and the copy it leaves is valid. -/
def tokOf (line : Nat) (rq : Rq) (h : Hold) (asked : Bool) (lender : Option CoreId) : List Instr :=
  if h.count = 0 then [] else [.tok ⟨line, rq, h.count, h.owner, h.dirty, h.owner || (asked && h.valid), lender⟩]

end Sys2Proof.Machine
end

