-- ==== Sys2Proof/Certificates/Slice0/Obligations.lean ====
section
/-! DEFINITION. Certificates/Slice0/Obligations.lean: the statements for the provers. -/

section Statements
open Sys2Proof Sys2Proof.Machine

/-! ### Decoding (R78 to R93) -/

/-- Words written out from the encodings of R81, R83 and R93 decode to the instruction they stand for, one of each class
and each form of extension words. -/
def Obligations.DecodeWords : Prop :=
  -- NOP alone at position 0
  (decodeBundle [0x01000000, 0x00000000]).toOption.bind Bundle.single = some .nop ∧
  -- ADD s3, s4, s5: opcode 0x01, D 3, A 4, B 5
  (decodeBundle [0x01000000, 0x0010C414]).toOption.bind Bundle.single = some (.add 3 4 5 false false) ∧
  -- ADDI s1, s2 with a long immediate at position 1
  (decodeBundle [0x03020000, 0x02004200, 0xFFFFFFFF]).toOption.bind Bundle.single
    = some (.addi 1 2 (.long 0xFFFFFFFF)) ∧
  -- MOVI s9 with two words
  (decodeBundle [0x07060000, 0x02724000, 0x11223344, 0x55667788]).toOption.bind Bundle.single
    = some (.movi 9 (.wide 0x5566778811223344)) ∧
  -- VADD v1, v2, v3 at position 2
  (decodeBundle [0x04000000, 0x0020420C]).toOption.bind Bundle.single = some (.vadd 1 2 3 false false) ∧
  -- TLD v4, s5, s6, td7: its word at position 5
  (decodeBundle [0x30200000, 0x00210518, 0x00000007]).toOption.bind Bundle.single
    = some (.tld 4 5 6 false false 7) ∧
  -- MMA.I8 v8, v0, v1 at position 6
  (decodeBundle [0x40000000, 0x00120004]).toOption.bind Bundle.single = some (.mmaI8 8 0 1 false false) ∧
  -- FENCE.PKG: the word in position 6 goes to position 7
  (decodeBundle [0xC0400000, 0x00000003, 0x00200000]).toOption.bind Bundle.single = some (.fence .pkg) ∧
  -- SYSR s10, 0x014
  (decodeBundle [0x80000000, 0x02028050]).toOption.bind Bundle.single = some (.sysr 10 0x014) ∧
  -- the empty bundle with RS
  (decodeBundle [0x00008000]).toOption.bind Bundle.single = some (.emptyBundle true false 0)

/-- R81, R83, R93: for every instruction of a slot, at every operand its encoding admits and under every guard, the
decoder gives it back from its slot word and its extension words at its position. -/
def Obligations.DecodeOfEncode : Prop :=
  ∀ (i : Instr) (e : Enc) (gn : Bool) (g : PReg), wellFormed i = true → encodeSlot i = some e →
    decodeAt e.pos (Fields.ofWord (e.fields gn g).toWord) e.ext = .ok i ∧
      Fields.ofWord (e.fields gn g).toWord = e.fields gn g

/-- R81, R85, R91, R93: no bit of a slot word or of an extension word is dropped: where the decoder accepts the words at a
position, the encoder gives back the same fields and the same extension words (positions 1, 3 and 5 hold the classes of
positions 0, 2 and 4), and the instruction is well-formed. -/
def Obligations.EncodeOfDecode : Prop :=
  ∀ (pos : Nat) (f : Fields) (ext : List Word32) (i : Instr), pos < 8 → decodeAt pos f ext = .ok i →
    encodeSlot i = some ⟨if pos = 1 ∨ pos = 3 ∨ pos = 5 then pos - 1 else pos, f.op, f.d, f.a, f.b, f.ma, f.mb, ext⟩ ∧
      wellFormed i = true

/-- R78, R83, R93: the bundle that holds one instruction alone decodes to it, whatever words follow. -/
def Obligations.BundleOfEncode : Prop :=
  ∀ (i : Instr) (rest : List Word32), wellFormed i = true → encode i ≠ [] →
    (decodeBundle (encode i ++ rest)).toOption.bind Bundle.single = some i

/-- R87, R91: nonzero header bits [9:0], CG.N without CG, a SURR bit of an absent position or of position 0 each make the
bundle illegal, whatever else it holds. -/
def Obligations.BadHeaderRejected : Prop :=
  ∀ (w : Word32) (rest : List Word32),
    (w.extractLsb' 0 10 ≠ 0 → decodeBundle (w :: rest) = .error .header) ∧
    (w.getLsbD 14 = true → w.extractLsb' 10 4 = 0 → decodeBundle (w :: rest) = .error .header) ∧
    (w.extractLsb' 0 10 = 0 → (w.getLsbD 14 = false ∨ w.extractLsb' 10 4 ≠ 0) → w.getLsbD 16 = true →
      decodeBundle (w :: rest) = .error .surrender) ∧
    (w.extractLsb' 0 10 = 0 → (w.getLsbD 14 = false ∨ w.extractLsb' 10 4 ≠ 0) → w.extractLsb' 16 8 &&& ~~~(w.extractLsb' 24 8) ≠ 0 →
      decodeBundle (w :: rest) = .error .surrender)

/-! ### The step (R25, R89) -/

/-- R25, R87, R89: the turn of a core whose next context has a decodable bundle of one slot at its pc, past everything that
could hold the bundle (readiness, the block test, a breakpoint, a stall), runs exec of the decoded instruction once, at the
state with the region open and the record of the bundle started. Around it the step adds: the time before the turn, the
core's engines, the bank stall, the move of the pc and the energy debit of completeBundle, and the report of debits. The turns and what a turn of a core
holds are the model's choice (logs 1, 8 and 10). -/
def Obligations.StepRunsDecoded : Prop :=
  ∀ (s : State) (u : Nat) (c : CoreId) (rest : List Turn) (x : CtxId) (b : Bundle) (sl : Slot) (t : State),
    s.dev.sharedStop = false → s.agenda = ⟨u, .core c⟩ :: rest →
    let s1 := ({ s with agenda := rest }.pass u)
    (s1.coreAt c).ready = true → ((s1.engines c).coreAt c).order4.head? = some x →
    let s2 := (s1.engines c).modCur fun _ => Cur.idle c x
    s2.me.occ = .running → s2.me.halted = false → s2.me.cm.phase = .idle → s2.heldOff c x = false →
    s2.me.stale = [] → s2.me.reslot = none →
    decodeBundle (wordsOf (s2.myCore.textAt s2.me.r.pc)) = .ok b → b.slots = [sl] →
    crossesHalf s2.me.r.pc b.hdr.bytes = false → s2.me.passesOver b.hdr = false → s2.me.endsRegion b.hdr = false →
    let s3 := s2.startBundle b.hdr
    let e := s3.see s3.me.names sl [] 0 s3.me.r.p
    e.blocks = false → e.ordered = false → e.heldBack = false → e.pipeBusy = false →
    s3.bpMatch = false → s3.straddles b.hdr.bytes = false →
    guardHolds s3.me.r sl = true →
    exec sl.instr (s3.modCur fun u => { u with pos := sl.pos }) = .next t →
      e.out = t ∧
      step s = .next ((((s3.completeBundle [e]).modCore c fun k => { k with lastCtx := x }).debitTurn c).modCur
        fun _ => Cur.idle c 0) ∧
      (e.stopped = false → s3.completeBundle [e] =
        ((t.parityReads [e]).stall (bankStall (bankSlabs [e]))).finish
          (1 + energyOf (s3.modCur fun u => { u with pos := sl.pos }).shape sl.pos sl.instr))

/-! ### Scalar arithmetic (R92, R127 to R135) -/

/-- R127, R129, R133: the three-operand instructions of one cycle, and the slot words of those of R129: its opcodes, with D, A,
B, MA and MB.
R127, R128: multiplication in 3 cycles and division in 20, with the results for a zero divisor and for the quotient
that does not fit, and DZ at the landing for a zero divisor.
Completes: add, sub, mul, mulh, mulhu, div, divu, rem, remu, and, or, xor, shl, shr, sra, min, max, minu, maxu, sel. -/
def Obligations.ScalarArithmetic : Prop :=
  (∀ (s : State) (d a b : SReg) (ma mb : Bool), s.FullS a → s.FullS b →
     let x := s.valS a
     let y := s.valS b
     Puts (.add d a b ma mb) s d (x + y) 1 ∧
     Puts (.sub d a b ma mb) s d (x - y) 1 ∧
     Puts (.and d a b ma mb) s d (x &&& y) 1 ∧
     Puts (.or d a b ma mb) s d (x ||| y) 1 ∧
     Puts (.xor d a b ma mb) s d (x ^^^ y) 1 ∧
     Puts (.shl d a b ma mb) s d (BitVec.ofNat 64 (x.toNat * 2 ^ (y.toNat % 64))) 1 ∧
     Puts (.shr d a b ma mb) s d (BitVec.ofNat 64 (x.toNat / 2 ^ (y.toNat % 64))) 1 ∧
     Puts (.sra d a b ma mb) s d (BitVec.ofInt 64 (x.toInt / 2 ^ (y.toNat % 64))) 1 ∧
     Puts (.min d a b ma mb) s d (if x.toInt ≤ y.toInt then x else y) 1 ∧
     Puts (.max d a b ma mb) s d (if x.toInt ≤ y.toInt then y else x) 1 ∧
     Puts (.minu d a b ma mb) s d (if x.toNat ≤ y.toNat then x else y) 1 ∧
     Puts (.maxu d a b ma mb) s d (if x.toNat ≤ y.toNat then y else x) 1 ∧
     Puts (.sel d a b ma mb) s d (if y ≠ 0 then x else 0) 1) ∧
  (∀ (d a b : SReg) (ma mb : Bool),
     let enc (i : Instr) (op : BitVec 7) : Prop := encodeSlot i = some ⟨0, op, d, a, b, ma, mb, []⟩
     enc (.and d a b ma mb) 0x0A ∧ enc (.or d a b ma mb) 0x0B ∧ enc (.xor d a b ma mb) 0x0C ∧ enc (.shl d a b ma mb) 0x0D ∧
     enc (.shr d a b ma mb) 0x0E ∧ enc (.sra d a b ma mb) 0x0F ∧ enc (.min d a b ma mb) 0x10 ∧ enc (.max d a b ma mb) 0x11 ∧
     enc (.minu d a b ma mb) 0x12 ∧ enc (.maxu d a b ma mb) 0x13) ∧
  (∀ (s : State) (d a b : SReg) (ma mb : Bool), s.FullS a → s.FullS b →
     let x := s.valS a
     let y := s.valS b
     let dz : Flags := if y = 0 then Flags.dz else 0
     Puts (.mul d a b ma mb) s d (BitVec.ofNat 64 (x.toNat * y.toNat)) 3 ∧
     Puts (.mulh d a b ma mb) s d (BitVec.ofInt 64 (x.toInt * y.toInt / 2 ^ 64)) 3 ∧
     Puts (.mulhu d a b ma mb) s d (BitVec.ofNat 64 (x.toNat * y.toNat / 2 ^ 64)) 3 ∧
     Does (.div d a b ma mb) s (fun t => Writes s t d
       (if y = 0 then BitVec.allOnes 64 else BitVec.ofInt 64 (Int.tdiv x.toInt y.toInt)) 20 true dz) ∧
     Does (.divu d a b ma mb) s (fun t => Writes s t d
       (if y = 0 then BitVec.allOnes 64 else BitVec.ofNat 64 (x.toNat / y.toNat)) 20 true dz) ∧
     Does (.rem d a b ma mb) s (fun t => Writes s t d
       (if y = 0 then x else BitVec.ofInt 64 (Int.tmod x.toInt y.toInt)) 20 true dz) ∧
     Does (.remu d a b ma mb) s (fun t => Writes s t d
       (if y = 0 then x else BitVec.ofNat 64 (x.toNat % y.toNat)) 20 true dz))

/-- R130 to R132: counts of bits, extension of a field of n + 1 bits, and the bit-field instructions with the geometry from
sB; and the slot words of R130 and R132. CLZ is the number n for which x lies from 2^(63 - n) to 2^(64 - n); CTZ the number of the lowest one bit.
Completes: clz, ctz, popc, sext, zext, bfx, bfi, mov. -/
def Obligations.ScalarBitFields : Prop :=
  (∀ (d a b : SReg) (ma mb : Bool),
    let enc (i : Instr) (op : BitVec 7) (b : BitVec 6) (mb : Bool) : Prop := encodeSlot i = some ⟨0, op, d, a, b, ma, mb, []⟩
    enc (.clz d a ma) 0x14 0 false ∧ enc (.ctz d a ma) 0x15 0 false ∧ enc (.popc d a ma) 0x16 0 false ∧
    enc (.bfx d a b ma mb) 0x19 b mb ∧ enc (.bfi d a b ma mb) 0x1A b mb) ∧
  ∀ (s : State) (d a b : SReg) (n : BitVec 6) (ma mb : Bool), s.FullS a →
    let x := s.valS a
    (∃ k : Nat, Puts (.clz d a ma) s d (BitVec.ofNat 64 k) 1 ∧
      (x = 0 → k = 64) ∧ (x ≠ 0 → k < 64 ∧ 2 ^ (63 - k) ≤ x.toNat ∧ x.toNat < 2 ^ (64 - k))) ∧
    (∃ k : Nat, Puts (.ctz d a ma) s d (BitVec.ofNat 64 k) 1 ∧
      (x = 0 → k = 64) ∧ (x ≠ 0 → x.getLsbD k = true ∧ ∀ j, j < k → x.getLsbD j = false)) ∧
    Puts (.popc d a ma) s d (BitVec.ofNat 64 ((List.range 64).filter fun i => x.getLsbD i).length) 1 ∧
    Puts (.sext d a n ma) s d ((x.setWidth (n.toNat + 1)).signExtend 64) 1 ∧
    Puts (.zext d a n ma) s d ((x.setWidth (n.toNat + 1)).setWidth 64) 1 ∧
    Puts (.mov d a ma) s d x 1 ∧
    (s.FullS b →
      let y := s.valS b
      let pos := (y.extractLsb' 0 6).toNat
      let len := (y.extractLsb' 8 7).toNat
      let mask : Word := BitVec.ofNat 64 ((2 ^ min len 48 - 1) * 2 ^ pos)
      Puts (.bfx d a b ma mb) s d (BitVec.ofNat 64 (x.toNat / 2 ^ pos % 2 ^ min len 64)) 1 ∧
      Puts (.bfi d a b ma mb) s d
        ((x &&& ~~~mask) ||| (BitVec.ofNat 64 ((y.extractLsb' 16 48).toNat * 2 ^ pos) &&& mask)) 1)

/-- R85, R134, R135: the immediate forms: bits [7:0] or a long-immediate word, sign-extended; MOVI also takes 64 bits.
Completes: addi, andi, ori, xori, shli, shri, srai, movi. -/
def Obligations.ScalarImmediates : Prop :=
  ∀ (s : State) (d a : SReg) (v : BitVec 8) (w : Word32) (q : Word) (n : BitVec 6) (long : Bool),
    (s.FullS a →
      let x := s.valS a
      Puts (.addi d a (.short v)) s d (x + v.signExtend 64) 1 ∧ Puts (.addi d a (.long w)) s d (x + w.signExtend 64) 1 ∧
      Puts (.andi d a (.short v)) s d (x &&& v.signExtend 64) 1 ∧ Puts (.andi d a (.long w)) s d (x &&& w.signExtend 64) 1 ∧
      Puts (.ori d a (.short v)) s d (x ||| v.signExtend 64) 1 ∧ Puts (.ori d a (.long w)) s d (x ||| w.signExtend 64) 1 ∧
      Puts (.xori d a (.short v)) s d (x ^^^ v.signExtend 64) 1 ∧ Puts (.xori d a (.long w)) s d (x ^^^ w.signExtend 64) 1 ∧
      Puts (.shli d a n long) s d (BitVec.ofNat 64 (x.toNat * 2 ^ n.toNat)) 1 ∧
      Puts (.shri d a n long) s d (BitVec.ofNat 64 (x.toNat / 2 ^ n.toNat)) 1 ∧
      Puts (.srai d a n long) s d (BitVec.ofInt 64 (x.toInt / 2 ^ n.toNat)) 1) ∧
    Puts (.movi d (.short v)) s d (v.signExtend 64) 1 ∧
    Puts (.movi d (.long w)) s d (w.signExtend 64) 1 ∧
    Puts (.movi d (.wide q)) s d q 1

/-- R67: an empty scalar source of an instruction of S0 or S1 blocks the bundle with mode bit 0 and raises the empty-read exception
with mode bit 1; the instruction has no other effect. A before B. An instruction with an immediate in place of its mode bit blocks.
R51, R52, R70: s0, p0 and k0 read zero, true and all ones in every state, writes to them change nothing, and in a
user-level handler the names s56 to s63 denote the shadow registers, so that the task's own registers stay. -/
def Obligations.EmptyAndHardwiredRegisters : Prop :=
  (∀ (s : State) (d a b : SReg) (p : PReg) (cc : Cond) (u : Option Bool) (size : BitVec 2) (sx long : Bool)
     (off : Option Word32) (n : BitVec 6) (st : BitVec 3) (len : LoopLen) (v : Imm) (ci : CmpImm),
     let two := ReadsFirst2 s a b
     let one := ReadsFirst s a
     (two (.add d a b) ∧ two (.sub d a b) ∧ two (.mul d a b) ∧ two (.mulh d a b) ∧ two (.mulhu d a b) ∧ two (.div d a b) ∧
       two (.divu d a b) ∧ two (.rem d a b) ∧ two (.remu d a b) ∧ two (.and d a b) ∧ two (.or d a b) ∧ two (.xor d a b) ∧
       two (.shl d a b) ∧ two (.shr d a b) ∧ two (.sra d a b) ∧ two (.min d a b) ∧ two (.max d a b) ∧ two (.minu d a b) ∧
       two (.maxu d a b) ∧ two (.sel d a b) ∧ two (.bfx d a b) ∧ two (.bfi d a b) ∧
       two (fun ma mb => .pcmp p cc a b ma mb u) ∧ two (fun ma mb => .st a b size ma mb off) ∧ two (.stsp n a b)) ∧
     (one (.mov d a) ∧ one (.clz d a) ∧ one (.ctz d a) ∧ one (.popc d a) ∧ one (.sext d a n) ∧ one (.zext d a n) ∧ one (.pfs a) ∧
       one (fun ma => .ld d a size sx ma off) ∧ one (.ldsp d a n) ∧ one (.br a) ∧ one (.call d a) ∧ one (.ret a) ∧
       one (.bswap a) ∧ one (fun ma => .loop a ma len) ∧ one (fun ma => .loopp a ma st len)) ∧
     (¬ s.FullS a → Blocks (.addi d a v) s ∧ Blocks (.andi d a v) s ∧ Blocks (.ori d a v) s ∧ Blocks (.xori d a v) s ∧
       Blocks (.shli d a n long) s ∧ Blocks (.shri d a n long) s ∧ Blocks (.srai d a n long) s ∧ Blocks (.pcmpi p cc a ci) s)) ∧
  (∀ (s : State) (v : Word) (b : Bool) (m : BitVec 2048) (n : SReg),
     s.valS 0 = 0 ∧ s.FullS 0 ∧ s.me.r.getP 0 = true ∧ s.me.r.getK 0 = BitVec.allOnes 2048 ∧
     s.me.r.putS 0 v = s.me.r ∧ s.me.r.putP 0 b = s.me.r ∧ s.me.r.putK 0 m = s.me.r ∧
     (s.me.r.inui = true → 56 ≤ n.toNat →
       (s.me.r.putS n v).s = s.me.r.s ∧ (s.me.r.putS n v).getS n = v ∧
       (s.me.r.getS n = s.me.r.sh[(n.extractLsb' 0 3).toNat]'(n.extractLsb' 0 3).isLt)) ∧
     (s.me.r.inui = false → n ≠ 0 → (s.me.r.putS n v).sh = s.me.r.sh ∧ s.me.r.getS n = s.me.r.s[n.toNat]'n.isLt))

/-! ### Predicates (R136 to R139) -/

/-- R136, R137: comparisons, signed and unsigned, register and immediate.
R138, R139: predicate logic, with its slot words, the registers in bits [3:0] of D, A and B; PTS reads the predicates with bit 0 one; PFS writes all but p0 and nothing else of the
registers.
Completes: pcmp, pcmpi, pand, por, pxor, pandn, pts, pfs. -/
def Obligations.Predicates : Prop :=
  (∀ (s : State) (d : PReg) (a b : SReg) (ma mb : Bool) (v : BitVec 8) (w : BitVec 31), s.FullS a →
     let x := s.valS a
     (s.FullS b →
       let y := s.valS b
       PutsP (.pcmp d .eq a b ma mb none) s d (decide (x = y)) ∧
       PutsP (.pcmp d .ne a b ma mb none) s d (decide (x ≠ y)) ∧
       PutsP (.pcmp d .lt a b ma mb none) s d (decide (x.toInt < y.toInt)) ∧
       PutsP (.pcmp d .le a b ma mb none) s d (decide (x.toInt ≤ y.toInt)) ∧
       PutsP (.pcmp d .lt a b ma mb (some true)) s d (decide (x.toNat < y.toNat)) ∧
       PutsP (.pcmp d .le a b ma mb (some true)) s d (decide (x.toNat ≤ y.toNat)) ∧
       PutsP (.pcmp d .lt a b ma mb (some false)) s d (decide (x.toInt < y.toInt))) ∧
     PutsP (.pcmpi d .eq a (.short v)) s d (decide (x = v.signExtend 64)) ∧
     PutsP (.pcmpi d .lt a (.short v)) s d (decide (x.toInt < v.toInt)) ∧
     PutsP (.pcmpi d .ne a (.word false w)) s d (decide (x ≠ w.signExtend 64)) ∧
     PutsP (.pcmpi d .lt a (.word false w)) s d (decide (x.toInt < w.toInt)) ∧
     PutsP (.pcmpi d .le a (.word true w)) s d (decide (x.toNat ≤ (w.signExtend 64).toNat))) ∧
  (∀ (s : State) (d a b : PReg) (n m : SReg) (ma : Bool),
     let x := s.me.r.getP a
     let y := s.me.r.getP b
     PutsP (.pand d a b) s d (x && y) ∧ PutsP (.por d a b) s d (x || y) ∧ PutsP (.pxor d a b) s d (x != y) ∧
     PutsP (.pandn d a b) s d (x && !y) ∧
     (let enc (i : Instr) (op : BitVec 7) : Prop :=
        encodeSlot i = some ⟨0, op, d.setWidth 6, a.setWidth 6, b.setWidth 6, false, false, []⟩
      enc (.pand d a b) 0x32 ∧ enc (.por d a b) 0x33 ∧ enc (.pxor d a b) 0x34 ∧ enc (.pandn d a b) 0x35) ∧
     (∃ v, Puts (.pts n) s n v 1 ∧ v.extractLsb' 16 48 = 0 ∧ ∀ p : PReg, v.getLsbD p.toNat = s.me.r.getP p) ∧
     (s.FullS m → Does (.pfs m ma) s fun t => OnlyMe s t ∧
       (∀ p : PReg, p ≠ 0 → t.me.r.getP p = (s.valS m).getLsbD p.toNat) ∧
       { t.me.r with p := s.me.r.p } = s.me.r ∧ { t.me with r := s.me.r, predAge := s.me.predAge } = s.me))

/-! ### Loads and stores (R39, R92, R140 to R145) -/

/-- R140, R141, R144: a load whose bytes can be reached marks its register empty and leaves one outstanding result, with the
keys of its bytes in address order, that lands 4 cycles after issue at the earliest; nothing else of the context changes
but its records, and no byte of memory.
R39, R92, R140: a store whose bytes can be reached puts its bytes, lowest address first, into the gate of the issuing
context and into no byte of memory; the records of its lines are kept. A store to a strongly-ordered page joins the ordered list
of its bundle instead. After either the space rule applies, which changes nothing while the core keeps to its amounts.
R39, R277, R399: an access that has to wait for a line or for space blocks its bundle and does nothing else.
R396: of a store to another device, whether that refuses it is a free choice that the model makes at the store (log 40): a refused
one discards its region and raises the tile-table exception with the address.
Completes: ld, st. -/
def Obligations.LoadsAndStores : Prop :=
  (∀ (s : State) (d a : SReg) (size : BitVec 2) (sx ma : Bool) (off : Option Word32) (keys : List (Nat × PageKind)),
     s.FullS a → s.keysOf false (s.accessOf a off (2 ^ size.toNat)) = .ok keys →
     (State.hasOrdered keys = false ∨ tensorByte (s.valS a).toNat ((off.map (·.toInt)).getD 0) 0 % 2 ^ size.toNat = 0) →
     (s.accessWaits false keys = true → Blocks (.ld d a size sx ma off) s) ∧
     (s.accessWaits false keys = false → ∃ t, exec (.ld d a size sx ma off) s = .next t.spaceSlot ∧
       (t.fits → t.spaceSlot = t) ∧ OnlyAccess s t ∧ OtherScalars s t d ∧ (d ≠ 0 → ¬ t.FullS d) ∧
       t.me.seq = s.me.seq + 1 ∧
       (∃ p, t.me.pend = s.me.pend ++ [p] ∧ p.kind = .load (s.me.r.isShadow d) d keys sx s.me.seq ∧
         p.region = s.me.region ∧ s.myCore.cycle + 4 ≤ p.early ∧ s.myCore.cycle + 4 ≤ p.due) ∧
       { t.me.r with s := s.me.r.s, sEmpty := s.me.r.sEmpty, sh := s.me.r.sh, shEmpty := s.me.r.shEmpty } = s.me.r ∧
       { t.me with r := s.me.r, pend := s.me.pend, seq := s.me.seq, recs := s.me.recs } = s.me)) ∧
  (∀ (s : State) (a b : SReg) (size : BitVec 2) (ma mb : Bool) (off : Option Word32) (keys : List (Nat × PageKind)),
     s.FullS a → s.FullS b → s.keysOf true (s.accessOf a off (2 ^ size.toNat)) = .ok keys →
     (State.hasOrdered keys = false → s.accessWaits true keys = true → Blocks (.st a b size ma mb off) s) ∧
     let u := (s.lookupAll s.cur.core (s.accessOf a off (2 ^ size.toNat))).2
     (State.hasOrdered keys = false → s.accessWaits true keys = false → s.me.opened = true → s.me.tr.installed = true →
       s.me.ckpt.active = false → ∀ bad, (u.remoteRefused keys).1 = some bad →
       Does (.st a b size ma mb off) s fun t => RolledBackTrap s t .tileTable (BitVec.ofNat 64 bad)) ∧
     (State.hasOrdered keys = false → s.accessWaits true keys = false → (u.remoteRefused keys).1 = none →
       ∃ t, exec (.st a b size ma mb off) s = .next t.spaceSlot ∧ (t.fits → t.spaceSlot = t) ∧
       OnlyAccess s t ∧ t.me.seq = s.me.seq + 1 ∧ t.me.r = s.me.r ∧
       t.me.gate = s.me.gate ++
         (keys.zip (leBytes (2 ^ size.toNat) (s.valS b).toNat)).map (fun p => ⟨p.1.1, s.me.seq, p.2⟩) ∧
       { t.me with gate := s.me.gate, seq := s.me.seq, recs := s.me.recs, scalarLines := s.me.scalarLines } = s.me) ∧
     (State.hasOrdered keys = true → s.accessWaits true keys = false →
       tensorByte (s.valS a).toNat ((off.map (·.toInt)).getD 0) 0 % 2 ^ size.toNat = 0 →
       exec (.st a b size ma mb off) s = .next (u.modMe fun v => { v with
         soStores := v.soStores ++ [⟨v.seq, (keys.map (·.1)).headD 0, 2 ^ size.toNat,
           BitVec.ofNat 64 ((s.valS b).toNat % 2 ^ (8 * 2 ^ size.toNat))⟩], seq := v.seq + 1 })))

/-- R141, R379, R396: a load or a store with a byte that no table reaches discards its region and raises the tile-table
exception with the address in TVAL.
R141, R144: an access of a strongly-ordered page that is not naturally aligned raises the illegal-operand exception and
does nothing else. -/
def Obligations.AccessExceptions : Prop :=
  (∀ (s : State) (d a b : SReg) (size : BitVec 2) (sx ma mb : Bool) (off : Option Word32) (bad : Nat),
     s.FullS a → s.FullS b → s.me.opened = true → s.me.tr.installed = true → s.me.ckpt.active = false →
     (s.keysOf false (s.accessOf a off (2 ^ size.toNat)) = .error bad →
       Does (.ld d a size sx ma off) s fun t => RolledBackTrap s t .tileTable (BitVec.ofNat 64 bad)) ∧
     (s.keysOf true (s.accessOf a off (2 ^ size.toNat)) = .error bad →
       Does (.st a b size ma mb off) s fun t => RolledBackTrap s t .tileTable (BitVec.ofNat 64 bad))) ∧
  (∀ (s : State) (d a b : SReg) (size : BitVec 2) (sx ma mb : Bool) (off : Option Word32)
     (keys : List (Nat × PageKind)), s.FullS a → s.FullS b → s.CanTrap → State.hasOrdered keys = true →
     tensorByte (s.valS a).toNat ((off.map (·.toInt)).getD 0) 0 % 2 ^ size.toNat ≠ 0 →
     (s.keysOf false (s.accessOf a off (2 ^ size.toNat)) = .ok keys → Traps (.ld d a size sx ma off) s .illegalOperand) ∧
     (s.keysOf true (s.accessOf a off (2 ^ size.toNat)) = .ok keys → Traps (.st a b size ma mb off) s .illegalOperand))

/-- R145: the spill store: 8 bytes at sA + 8n, which must be a multiple of 8 within 4 KiB; a load takes 2 cycles; a store
changes those bytes of the issuing context's spill store and nothing else, no byte of memory.
Completes: ldsp, stsp. -/
def Obligations.SpillStore : Prop :=
  ∀ (s : State) (d a b : SReg) (n : BitVec 6) (ma mb : Bool), s.FullS a → Memory.wf s.me.spill = true →
    let q := s.valS a + BitVec.ofNat 64 (8 * n.toNat)
    (q.toNat % 8 = 0 → q.toNat + 7 ≤ 4095 →
      Puts (.ldsp d a n ma) s d (BitVec.ofNat 64 (cellNat s.me.spill q.toNat 8)) 2 ∧
      (s.FullS b → Does (.stsp n a b ma mb) s fun t => OnlyMe s t ∧ { t.me with spill := s.me.spill } = s.me ∧
        ∀ i, cellGet t.me.spill i = if q.toNat ≤ i ∧ i < q.toNat + 8 then
          BitVec.ofNat 8 ((s.valS b).toNat / 256 ^ (i - q.toNat)) else cellGet s.me.spill i)) ∧
    (¬ (q.toNat % 8 = 0 ∧ q.toNat + 7 ≤ 4095) → s.CanTrap →
      Traps (.ldsp d a n ma) s .illegalOperand ∧ (s.FullS b → Traps (.stsp n a b ma mb) s .illegalOperand))

/-! ### Branches and loops (R146 to R154) -/

/-- R146, R147, R153: a branch outside the last bundle of a loop body records its target, in the active half, costs one
stall cycle, leaves the loop levels whose bodies the target is outside of, and changes nothing else; calls keep the levels and
link the next bundle's address.
R146, R153: a register target that is no multiple of 4, and a branch in the last bundle of a loop body, raise the
illegal-operand exception with no other effect.
Completes: br, bri, call, calli, ret, bswap. -/
def Obligations.Branches : Prop :=
  (∀ (s : State) (d a : SReg) (ma : Bool) (v : BitVec 8) (w : Word32), s.inLastBundle = false →
     let half := s.cur.addr.toNat / 32768 * 32768
     let to_ (n : Int) : BitVec 16 := BitVec.ofNat 16 (half + ((s.cur.addr.toNat % 32768 : Nat) + n).emod 32768 |>.toNat)
     let jump (u : State) (tgt : BitVec 16) : State := u.modCur fun c => { c with br := some tgt, cost := c.cost + 1 }
     let leave (tgt : BitVec 16) : State := s.modRegs fun r => { r with loops := popLevels tgt r.loops }
     let reg : BitVec 16 := BitVec.ofNat 16 (half + (s.valS a).toNat % 32768)
     exec (.bri (.short v)) s = .next (jump (leave (to_ (4 * v.toInt))) (to_ (4 * v.toInt))) ∧
     exec (.bri (.long w)) s = .next (jump (leave (to_ w.toInt)) (to_ w.toInt)) ∧
     (∃ u, Writes s u d (s.cur.next.setWidth 64) 1 false 0 ∧
       exec (.calli d (.short v)) s = .next (jump u (to_ (4 * v.toInt))) ∧
       exec (.calli d (.long w)) s = .next (jump u (to_ w.toInt)) ∧
       (s.FullS a → (s.valS a).toNat % 4 = 0 → exec (.call d a ma) s = .next (jump u reg))) ∧
     (s.FullS a → (s.valS a).toNat % 4 = 0 →
       exec (.br a ma) s = .next (jump (leave reg) reg) ∧ exec (.ret a ma) s = .next (jump (leave reg) reg) ∧
       exec (.bswap a ma) s = .next ((s.modRegs fun r => { r with loops := [] }).modCur fun c =>
         { c with br := some (BitVec.ofNat 16 ((1 - s.cur.addr.toNat / 32768) * 32768 + (s.valS a).toNat % 32768))
                  cost := c.cost + 3 }))) ∧
  (∀ (s : State) (d a : SReg) (ma : Bool) (v : Imm), s.CanTrap →
     (s.inLastBundle = true → Traps (.bri v) s .illegalOperand ∧ Traps (.calli d v) s .illegalOperand) ∧
     (s.FullS a → ((s.valS a).toNat % 4 ≠ 0 ∨ s.inLastBundle = true) →
       Traps (.br a ma) s .illegalOperand ∧ Traps (.call d a ma) s .illegalOperand ∧ Traps (.ret a ma) s .illegalOperand ∧
       Traps (.bswap a ma) s .illegalOperand))

/-- R150 to R152: LOOP and LOOPP push a level whose body starts at the next bundle, with sA iterations (and S more
kernel passes for S + 1 stages); LOOPP sets p8 and clears the other stage predicates of its stages; a count of zero
jumps behind the body; a count of 2^32 or more and a fifth level raise the illegal-operand exception.
R147, R152: where the pc goes after a bundle while nothing is to stop the context: to a taken branch's target; else to the
next bundle, but at the end of the innermost body to its start while passes are left, counted down; when it was the last pass the
level is popped, and the next level is treated alike where its body ends there too. A pass of a software pipeline whose p8 is false
launches no iteration, and the stage predicates rotate, also in the last pass.
R154: a pre-emption request stops a LOOP at the end of an iteration. A LOOPP of two or more stages it drains: p8 becomes false, and the
passes go on until no stage predicate is set; the kernel count is then that of the iterations left, and the context stops.
Choices of the model stand in these clauses: the end address of a body wraps within its half (log 31), and a remaining count of 0
stays 0 where software has set p8 (log 13).
Completes: loop, loopp. -/
def Obligations.Loops : Prop :=
  (∀ (s : State) (a : SReg) (ma : Bool) (st : BitVec 3) (n : BitVec 6) (m : BitVec 13), s.FullS a →
     let cnt := (s.valS a).toNat
     let stop (k : Nat) : BitVec 16 := seqPc s.cur.next (4 * k)
     let level (k : Nat) (st : BitVec 3) (pipe : Bool) : LoopLevel :=
       { start := s.cur.next, stop := stop k, remaining := cnt, kernel := cnt + st.toNat, stages := st, drain := false
         pipelined := pipe }
     (0 < cnt → cnt < 2 ^ 32 → s.me.r.loops.length < 4 →
       exec (.loop a ma (.short n)) s = .next (s.modRegs fun r => { r with loops := level n.toNat 0 false :: r.loops }) ∧
       exec (.loop a ma (.long m)) s = .next (s.modRegs fun r => { r with loops := level m.toNat 0 false :: r.loops }) ∧
       Does (.loopp a ma st (.short n)) s fun t => OnlyMe s t ∧ t.me.r.loops = level n.toNat st true :: s.me.r.loops ∧
         (∀ p : PReg, t.me.r.getP p = if 8 < p.toNat ∧ p.toNat ≤ 8 + st.toNat then false else if p = 8 then true
           else s.me.r.getP p) ∧
         { t.me.r with p := s.me.r.p, loops := s.me.r.loops } = s.me.r ∧
         { t.me with r := s.me.r, predAge := s.me.predAge } = s.me) ∧
     (cnt = 0 → s.me.r.loops.length < 4 →
       exec (.loop a ma (.short n)) s = .next (s.modCur fun c => { c with br := some (stop n.toNat), cost := c.cost + 1 }) ∧
       exec (.loopp a ma st (.long m)) s = .next (s.modCur fun c => { c with br := some (stop m.toNat), cost := c.cost + 1 })) ∧
     ((2 ^ 32 ≤ cnt ∨ s.me.r.loops.length = 4) → s.CanTrap →
       Traps (.loop a ma (.short n)) s .illegalOperand ∧ Traps (.loopp a ma st (.short n)) s .illegalOperand)) ∧
  (∀ (s : State) (l : LoopLevel) (rest : List LoopLevel), s.loopReq s.cur.core s.cur.ctx = false →
     (∀ tgt, s.cur.br = some tgt → s.advancePc = (false, s.modRegs fun r => { r with pc := tgt })) ∧
     (s.cur.br = none → s.me.r.loops = [] → s.advancePc.2.me.r = { s.me.r with pc := s.cur.next }) ∧
     (s.cur.br = none → s.me.r.loops = l :: rest → l.stop ≠ s.cur.next →
       s.advancePc.2.me.r = { s.me.r with pc := s.cur.next }) ∧
     (s.cur.br = none → s.me.r.loops = l :: rest → l.stop = s.cur.next → l.drain = false → 1 < l.kernel →
       (l.pipelined = false → s.advancePc.2.me.r = { s.me.r with
         pc := l.start, loops := { l with remaining := l.remaining - 1, kernel := l.kernel - 1 } :: rest }) ∧
       (l.pipelined = true → ∃ p, s.advancePc.2.me.r = { s.me.r with
           pc := l.start, p := p, loops := { l with
             remaining := if s.me.r.p.getLsbD 8 then l.remaining - 1 else l.remaining, kernel := l.kernel - 1 } :: rest } ∧
         p.getLsbD 8 = decide (0 < if s.me.r.p.getLsbD 8 then l.remaining - 1 else l.remaining) ∧
         (∀ j, 1 ≤ j → j ≤ l.stages.toNat → p.getLsbD (8 + j) = s.me.r.p.getLsbD (7 + j)) ∧
         (∀ j, j < 8 → p.getLsbD j = s.me.r.p.getLsbD j))) ∧
     (s.cur.br = none → s.me.r.loops = [l] → l.stop = s.cur.next → l.drain = false → l.kernel = 1 → l.pipelined = false →
       s.advancePc.2.me.r = { s.me.r with pc := s.cur.next, loops := [] }) ∧
     (s.cur.br = none → s.me.r.loops = l :: rest → l.stop = s.cur.next → l.drain = false → l.kernel = 1 →
       let behind (p : BitVec 16) : State := s.modRegs fun r => { r with loops := rest, p := p }
       (l.pipelined = false → s.advancePc.2.me.r = (behind s.me.r.p).advancePc.2.me.r) ∧
       (l.pipelined = true → ∃ p, s.advancePc.2.me.r = (behind p).advancePc.2.me.r ∧
         p.getLsbD 8 = decide (0 < if s.me.r.p.getLsbD 8 then l.remaining - 1 else l.remaining) ∧
         (∀ j, 1 ≤ j → j ≤ l.stages.toNat → p.getLsbD (8 + j) = s.me.r.p.getLsbD (7 + j)) ∧
         (∀ j, j < 8 → p.getLsbD j = s.me.r.p.getLsbD j)))) ∧
  (∀ (s : State) (l : LoopLevel) (rest : List LoopLevel), s.cur.br = none → s.me.r.loops = l :: rest → l.stop = s.cur.next →
     1 < l.kernel →
     (s.preemptible s.cur.core s.cur.ctx = true → l.drain = false → l.pipelined = false → s.advancePc.1 = true ∧
       s.advancePc.2.me.r = { s.me.r with
         pc := l.start, loops := { l with remaining := l.remaining - 1, kernel := l.kernel - 1 } :: rest }) ∧
     (s.preemptible s.cur.core s.cur.ctx = true ∨ l.drain = true → l.pipelined = true → 1 ≤ l.stages.toNat →
       let rem := if s.me.r.p.getLsbD 8 then l.remaining - 1 else l.remaining
       ∃ p, p.getLsbD 8 = false ∧ (∀ j, 1 ≤ j → j ≤ l.stages.toNat → p.getLsbD (8 + j) = s.me.r.p.getLsbD (7 + j)) ∧
         (∀ j, j < 8 → p.getLsbD j = s.me.r.p.getLsbD j) ∧
         ((∀ j, j ≤ l.stages.toNat → p.getLsbD (8 + j) = false) → s.advancePc.1 = true ∧
           s.advancePc.2.me.r = { s.me.r with pc := l.start, p := p, loops :=
             { l with remaining := rem, kernel := rem + l.stages.toNat, drain := false } :: rest }) ∧
         ((∃ j, j ≤ l.stages.toNat ∧ p.getLsbD (8 + j) = true) → s.advancePc.1 = false ∧
           s.advancePc.2.me.r = { s.me.r with pc := l.start, p := p, loops :=
             { l with remaining := rem, kernel := l.kernel - 1, drain := true } :: rest })))

/-! ### Bundles and commits (R37, R41, R79, R87, R224) -/

/-- R79, R87, R88, R133: an empty bundle and a bundle passed over move the pc on, which NOP leaves to its bundle; no other
register and no byte of memory changes; a bundle passed over opens no region, and costs at most a cycle.
R87: a bundle whose common guard is false is passed over by one step: no slot of it is decoded or executed.
Completes: emptyBundle, bundleSkip, nop. -/
def Obligations.BundlesThatDoNothing : Prop :=
  (∀ (s : State) (rs cgn : Bool) (cg : PReg) (bytes : BitVec 6),
     exec .nop s = .next s ∧
     (s.me.r.loops = [] → s.cur.stop = .going →
       (s.cur.br = none → Does (.emptyBundle rs cgn cg) s fun t =>
         t.me.r = { s.me.r with pc := s.cur.next } ∧ t.me.opened = true ∧ t.me.gate = s.me.gate ∧
         t.myCore.cycle = s.myCore.cycle + 1 + s.cur.cost ∧ ∀ a, t.byteAt a = s.byteAt a) ∧
       Does (.bundleSkip rs cg bytes) s fun t =>
         t.me.r = { s.me.r with pc := seqPc s.me.r.pc bytes.toNat } ∧ t.me.opened = s.me.opened ∧
         t.me.gate = s.me.gate ∧ s.myCore.cycle ≤ t.myCore.cycle ∧ t.myCore.cycle ≤ s.myCore.cycle + 1 ∧
         (s.me.predAge[cg.toNat]'cg.isLt < 3 → t.myCore.cycle = s.myCore.cycle + 1) ∧ ∀ a, t.byteAt a = s.byteAt a)) ∧
  (∀ (s : State) (ws : List Word32), s.me.stale = [] → s.me.reslot = none →
     wordsOf (s.myCore.textAt s.me.r.pc) = ws →
     let h := Header.ofWord (ws.headD 0)
     h.cg ≠ 0 → s.me.r.getP h.cg = h.cgn →
     ∃ t, exec (.bundleSkip h.rs h.cg (BitVec.ofNat 6 h.bytes)) s = .next t ∧ s.issue = (true, t))

/-- R37, R41: a commit begins: while an operation of the region is outstanding it drains; else the horizon wait of 96
cycles begins at once. An RS bit starts the commit of the open region in the same way. Nothing else changes.
R37, R224: every commit-point instruction whose operand checks pass first starts the commit of its region and is kept in
flight, before any of its own effects.
Completes: implicitRegionCommit. -/
def Obligations.CommitFirst : Prop :=
  (∀ (s : State) (c : CoreId) (x : CtxId),
     s.beginCommit c x = s.modCtx c x (fun v => { v with
       cm := if (s.coreAt c).busyFor x then ⟨.drain, 0⟩ else ⟨.horizon, (s.coreAt c).cycle + 96⟩ }) ∧
     (s.me.opened = true → s.me.cm.phase = .idle → exec .implicitRegionCommit s =
       .next ((s.beginCommit s.cur.core s.cur.ctx).modCur fun u => { u with stop := .left })) ∧
     (s.me.opened = false → exec .implicitRegionCommit s = .next s)) ∧
  (∀ (s : State) (d a b c : SReg) (ma mb wide : Bool) (op : AmoOp) (sc : Scope) (n : BitVec 12),
     s.me.cm.phase = .idle →
     let started (i : Instr) : Prop := exec i s = .next (s.commitStarted i)
     started .commit ∧ started (.fence sc) ∧ started .ifence ∧ started (.fnew d) ∧ started (.cnew d) ∧
     (s.me.r.active = false → started .yield) ∧
     (s.FullS a → started (.texit a ma) ∧
       (futIndex ((s.valS a).extractLsb' 0 32) ≠ 0 →
         (s.me.r.active = false → started (.await a ma)) ∧ started (.fgetV d a ma) ∧ started (.fgetS d a ma) ∧
         started (.ffail a ma) ∧ started (.ffree a ma) ∧ (s.FullS b → started (.fset a b ma mb))) ∧
       (castBad ((s.valS a).extractLsb' 0 32) = false →
         started (.cjoin a ma) ∧ started (.cleave a ma) ∧ started (.cfree a ma) ∧ started (.barrive d a ma) ∧
         (s.FullS b → started (.bexpect a b ma mb) ∧ started (.bwait a b ma mb) ∧ started (.btest d a b ma mb))) ∧
       (s.FullS b →
         ((s.valS b).extractLsb' 7 57 = 0 → started (.tspawn d a b ma mb)) ∧
         ((s.valS a).toNat % (if wide then 8 else 4) = 0 → started (.amo op wide sc d a b ma mb) ∧
           (s.FullS c → started (.cas wide sc d a b ma mb c))))) ∧
     (s.FullS d → s.me.r.mode = true → (sysLevel n.toNat).isSome = true → 0x020 ≤ n.toNat → started (.sysw d n)) ∧
     (s.me.r.mode = true → s.cur.isolated = true → started .halt))

/-- R41, R304, R307, R311: at the end of the horizon wait a committer that holds every token of its write set, no line of it
poisoned, ends its persistent requests and merges, for 5 cycles and one more for each line of its write set, or for 2 with none; one
that still lacks tokens goes on gathering; no byte changes in either. Once the merge cycles are over, with every token still held, the
commit is performed: each byte of memory takes the
region's last store to it, the gate and the records are empty, the counts of the region are cleared and no region is open.
Completes: horizonWaitEnd. -/
def Obligations.CommitMakesVisible : Prop :=
  ∀ (s : State) (c : CoreId) (x : CtxId), Memory.wf s.mem = true →
    let v := s.ctxAt c x
    let n := v.writeLines.length
    (v.cm.phase = .horizon → v.cm.hEnd ≤ (s.coreAt c).cycle →
      (s.confirmed c x = false → Does (.horizonWaitEnd c x) s fun t =>
        (t.ctxAt c x).cm.phase = .gather ∧ (t.ctxAt c x).gate = v.gate ∧ ∀ a, t.byteAt a = s.byteAt a) ∧
      (s.confirmed c x = true → s.poisonedPart c x = none →
        exec (.horizonWaitEnd c x) s = .next ((s.endPersistent c x).modCtx c x fun v => { v with
          cm := ⟨.merge, (s.coreAt c).cycle + if n = 0 then 2 else 5 + n⟩ }))) ∧
    (v.cm.phase = .merge → v.cm.hEnd < (s.coreAt c).cycle → s.allLines c x = true → v.after = .none → v.soStores = [] →
      s.homeBusy c x = false →
      let t := s.tryCommit c x
      (∀ a, a < 2 ^ 64 → t.byteAt a = (gateFinal v.gate a).getD (s.byteAt a)) ∧
      (t.ctxAt c x).gate = [] ∧ (t.ctxAt c x).recs = [] ∧ (t.ctxAt c x).opened = false ∧
      (t.ctxAt c x).run = 0 ∧ (t.ctxAt c x).race = 0 ∧ (t.ctxAt c x).cm.phase = .done ∧ (t.ctxAt c x).r = v.r)

/-- R225 to R227: once the commit is done, COMMIT and the fences of CTX, CORE, DIE and PKG have no further effect; FENCE.FAB
ends in the second window after the one in which the commit completed, with every remote write acknowledged, FENCE.SYS also waits for the host; IFENCE
discards the bundles fetched ahead.
R226: the start of the window a fence waits for ends that part of its wait.
Completes: commit, fence, ifence, fenceWindowEnd. -/
def Obligations.CommitAndFences : Prop :=
  (∀ (s : State) (sc : Scope), s.Committed →
     exec .commit s = .next s.opDone ∧
     (sc ≠ .fab → sc ≠ .sys → exec (.fence sc) s = .next s.opDone) ∧
     (s.me.waitWindow = some 0 → s.remoteQuiet s.cur.core s.cur.ctx = true →
       exec (.fence .fab) s = .next (s.modMe fun v => { v with waitWindow := none }).opDone ∧
       (s.me.hostUnacked = 0 → exec (.fence .sys) s = .next (s.modMe fun v => { v with waitWindow := none }).opDone)) ∧
     (s.me.waitWindow = none → s.dev.tb.locked = true → s.window < s.me.commitWin + 2 → exec (.fence .fab) s =
       .next (s.modMe fun v => { v with waitWindow := some (s.me.commitWin + 2) }).block) ∧
     exec .ifence s = .next (s.modMe fun v => { v with stale := [] }).opDone) ∧
  (∀ (s : State) (c : CoreId) (x : CtxId) (n : Nat), (s.ctxAt c x).waitWindow = some n →
     (n ≤ s.window → exec (.fenceWindowEnd c x) s = .next (s.modCtx c x fun v => { v with waitWindow := some 0 })) ∧
     (s.window < n → exec (.fenceWindowEnd c x) s = .next s))

/-- R228, R229, R278, R312: an atomic on a tracked line of which the core holds every token for it: the bytes at the address, and no
others, take the new value, and sD receives the old one with latency 8 (sign-extended for a 4-byte MIN or MAX). The new values
of the nine operations, and of CAS, are those of the table. The address is translated once, at the operation's first turn.
Completes: amo, cas. -/
def Obligations.AtomicsOnMemory : Prop :=
  (∀ (n old x y : Nat), n = 4 ∨ n = 8 → old < 2 ^ (8 * n) → x < 2 ^ (8 * n) → y < 2 ^ (8 * n) →
    atomicNew (some .add) n old x y = (old + x) % 2 ^ (8 * n) ∧ atomicNew (some .and) n old x y = old &&& x ∧
    atomicNew (some .or) n old x y = old ||| x ∧ atomicNew (some .xor) n old x y = old ^^^ x ∧
    atomicNew (some .minu) n old x y = min old x ∧ atomicNew (some .maxu) n old x y = max old x ∧
    atomicNew (some .swap) n old x y = x ∧
    signedOf (8 * n) (atomicNew (some .min) n old x y) = min (signedOf (8 * n) old) (signedOf (8 * n) x) ∧
    signedOf (8 * n) (atomicNew (some .max) n old x y) = max (signedOf (8 * n) old) (signedOf (8 * n) x) ∧
    atomicNew none n old x y = if old = x then y else old) ∧
  ∀ (s : State) (op : AmoOp) (wide : Bool) (sc : Scope) (d a b c : SReg) (ma mb : Bool) (pa : Nat) (k : PageKind)
    (rest : List (Nat × PageKind)),
    Memory.wf s.mem = true → s.Committed → s.FullS a → s.FullS b → s.FullS c →
    let n := if wide then 8 else 4
    (s.valS a).toNat % n = 0 →
    (s.me.infl.bind (·.key) = some (pa, k) ∨ s.me.infl.bind (·.key) = none ∧
      s.keysOf true ((List.range n).map fun i => tensorByte (s.valS a).toNat 0 i) = .ok ((pa, k) :: rest)) →
    k ≠ .remote → k ≠ .ordered → lineOf pa ∉ s.coh.poison → s.lineReady s.cur.core s.cur.ctx (lineOf pa) = true →
    let old := cellNat s.mem pa n
    let does (i : Instr) (new : Nat) (res : Word) : Prop := ∃ u t, exec i s = .next t.opDone ∧
      Writes u t d res 8 false 0 ∧ u.me.r = s.me.r ∧
      ∀ z, t.byteAt z = if pa ≤ z ∧ z < pa + n then BitVec.ofNat 8 (new / 256 ^ (z - pa)) else s.byteAt z
    does (.amo op wide sc d a b ma mb) (atomicNew (some op) n old (s.valS b).toNat 0)
      (if wide = false ∧ (op = .min ∨ op = .max) then BitVec.ofInt 64 (signedOf 32 old) else BitVec.ofNat 64 old) ∧
    does (.cas wide sc d a b ma mb c) (atomicNew none n old (s.valS b).toNat (s.valS c).toNat) (BitVec.ofNat 64 old)

/-! ### Futures (R30, R31, R233) -/

/-- R30, R31, R233, R320: the future instructions on a live entry. FSET and FFAIL need it PENDING and raise the future-state
exception otherwise; FGET.V and FGET.S read it in 160 cycles; FFREE makes it EMPTY under the next generation, so that its handle is
stale. No core and no byte of memory changes but for sD.
R30, R31, R233: a future instruction with INDEX 0 raises the illegal-operand exception before its commit; with an INDEX
beyond the table it raises it as an operation exception, with a stale handle the stale-handle exception.
R233, R235, R321: FNEW gives a handle of 160 cycles: of the entry freed longest ago under its current generation, else of the lowest
index never allocated under generation 0, PENDING with no waiter; handle 0 when there is neither.
Completes: fnew, fset, fgetV, fgetS, ffail, ffree. -/
def Obligations.Futures : Prop :=
  (∀ (s : State) (d a b : SReg) (ma mb : Bool) (e : FutEnt), s.Committed → s.FullS a →
     let h : BitVec 32 := (s.valS a).extractLsb' 0 32
     futIndex h ≠ 0 → s.futLook h = .ok e →
     let after (e' : FutEnt) (t : State) : Prop :=
       assoc t.fut.ents (futIndex h) = some e' ∧ t.cores = s.cores ∧ t.cur = s.cur ∧ ∀ z, t.byteAt z = s.byteAt z
     (s.FullS b → e.st = .pending →
       Finishes (.fset a b ma mb) s (after { e with st := .ready, val := s.valS b, waiters := [] })) ∧
     (e.st = .pending → e.waiters = [] → Finishes (.ffail a ma) s (after { e with st := .failed })) ∧
     (e.waiters = [] → (∀ k ∈ s.tasks, k.st = .waiting → futHandle e.gen (futIndex h) ∉ k.tr.deps.toList) →
       Finishes (.ffree a ma) s (after { val := 0, gen := e.gen + 1, st := .empty, waiters := [] })) ∧
     (e.st ≠ .pending → s.CanTrap → OpTraps (.ffail a ma) s .futureState ∧
       (s.FullS b → OpTraps (.fset a b ma mb) s .futureState)) ∧
     FinishesPut (.fgetV d a ma) s d (if e.st = .ready then e.val else 0) 160 ∧
     (e.st = .pending → FinishesPut (.fgetS d a ma) s d 1 160) ∧
     (e.st = .ready → FinishesPut (.fgetS d a ma) s d 2 160) ∧
     (e.st = .failed → FinishesPut (.fgetS d a ma) s d 3 160)) ∧
  ((∀ (s : State) (d a b : SReg) (ma mb : Bool), s.FullS a → s.FullS b → s.CanTrap →
      let h : BitVec 32 := (s.valS a).extractLsb' 0 32
      let all (P : Instr → Prop) : Prop := P (.fset a b ma mb) ∧ P (.fgetV d a ma) ∧ P (.fgetS d a ma) ∧
        P (.ffail a ma) ∧ P (.ffree a ma) ∧ P (.await a ma)
      (futIndex h = 0 → all fun i => Traps i s .illegalOperand) ∧
      (futIndex h ≠ 0 → s.Committed → s.futLook h = .range → all fun i => OpTraps i s .illegalOperand) ∧
      (futIndex h ≠ 0 → s.Committed → s.futLook h = .stale → all fun i => OpTraps i s .staleHandle)) ∧
   (∀ (s : State) (d : SReg), s.Committed →
      (∀ i rest e, s.fut.freed = i :: rest → assoc s.fut.ents i = some e → ∃ u, FinishesFrom (.fnew d) s u d
        ((futHandle e.gen i).setWidth 64) 160 ∧ u.fut.freed = rest ∧ u.cores = s.cores ∧ u.mem = s.mem ∧
        assoc u.fut.ents i = some ⟨0, e.gen, .pending, []⟩) ∧
      (s.fut.freed = [] → s.fut.next < s.fut.size.getD 0 → ∃ u, FinishesFrom (.fnew d) s u d
        ((futHandle 0 s.fut.next).setWidth 64) 160 ∧ u.fut.next = s.fut.next + 1 ∧ u.cores = s.cores ∧ u.mem = s.mem ∧
        assoc u.fut.ents s.fut.next = some ⟨0, 0, .pending, []⟩) ∧
      (s.fut.freed = [] → s.fut.size.getD 0 ≤ s.fut.next → FinishesPut (.fnew d) s d 0 160)))

/-! ### Casts (R33 to R36, R234) -/

/-- R33 to R36, R234: the cast instructions on a live cast: CJOIN adds the task unless it is a member or the cast has 512;
CLEAVE takes it out; CFREE by the only member dissolves the cast under the next generation; BARRIVE of a member awaited in
the open phase counts it, gives the phase and completes the phase when it was the last one and no byte is pending; BEXPECT
adds to the pending bytes; BWAIT passes and BTEST gives 1 when the phase is past, by the difference modulo 2^32.
R33, R234, R235: CNEW gives a handle with the creator as the only member, in phase 0: of the entry freed longest ago, else of the
lowest never allocated; 0 when all 4095 are allocated. A released waiter no longer waits, and its instruction proceeds.
Completes: cnew, cjoin, cleave, cfree, barrive, bexpect, bwait, btest, barrierWaiterRelease. -/
def Obligations.Casts : Prop :=
  (∀ (s : State) (d a b : SReg) (ma mb : Bool) (e : CastEnt), s.Committed → s.FullS a →
     let h : BitVec 32 := (s.valS a).extractLsb' 0 32
     let me := s.me.task.getD 0
     castBad h = false → s.castLook h = some e →
     let after (e' : CastEnt) (t : State) : Prop := assoc t.casts.ents (castIndex h) = some e' ∧ t.mem = s.mem ∧
       ({ t with casts := s.casts } = s)
     (me ∉ e.members → e.members.length < 512 →
       Finishes (.cjoin a ma) s (after { e with members := e.members ++ [me] })) ∧
     (me ∈ e.members → exec (.cjoin a ma) s = .next s.opDone ∧
       Finishes (.cleave a ma) s (after (e.leave me))) ∧
     (e.members = [me] → s.CanTrap → Finishes (.cfree a ma) s fun t => t.mem = s.mem ∧
       assoc t.casts.ents (castIndex h) = some { e with
         alloc := false, gen := e.gen + 1, members := [], awaited := [], arrived := [], pending := 0, ovr := false, phase := 0 }) ∧
     (me ∈ e.members → me ∈ e.awaited → me ∉ e.arrived → ∃ u, FinishesFrom (.barrive d a ma) s u d (e.phase.setWidth 64) 160 ∧
       after ({ e with arrived := e.arrived ++ [me] }.settle) u) ∧
     (s.FullS b → me ∈ e.members → (s.valS b).extractLsb' 32 32 = 0 → e.ovr = false →
       e.pending + (s.valS b).toNat < 2 ^ 32 →
       Finishes (.bexpect a b ma mb) s (after { e with pending := e.pending + (s.valS b).toNat })) ∧
     (s.FullS b →
       let past := 1 ≤ (e.phase - (s.valS b).extractLsb' 0 32).toNat ∧ (e.phase - (s.valS b).extractLsb' 0 32).toNat < 2 ^ 31
       (past → exec (.bwait a b ma mb) s = .next s.opDone ∧ FinishesPut (.btest d a b ma mb) s d 1 160) ∧
       (¬ past → FinishesPut (.btest d a b ma mb) s d 0 160 ∧
         Does (.bwait a b ma mb) s fun t => t.cur.stop = .blocked ∧ t.me.waitCast = some h ∧ t.me.r = s.me.r ∧ t.mem = s.mem))) ∧
  (∀ (s : State) (d : SReg) (c : CoreId) (x : CtxId), 
     (s.Committed →
       let fresh (g : BitVec 10) : CastEnt := ⟨true, g, [s.me.task.getD 0], 0, [s.me.task.getD 0], [], 0, false⟩
       (∀ i rest e, s.casts.freed = i :: rest → assoc s.casts.ents i = some e → ∃ u, FinishesFrom (.cnew d) s u d
         ((castHandle e.gen i).setWidth 64) 160 ∧ u.cores = s.cores ∧ assoc u.casts.ents i = some (fresh e.gen)) ∧
       (s.casts.freed = [] → s.casts.next < 4096 → ∃ u, FinishesFrom (.cnew d) s u d
         ((castHandle 0 s.casts.next).setWidth 64) 160 ∧ u.cores = s.cores ∧
         assoc u.casts.ents s.casts.next = some (fresh 0)) ∧
       (s.casts.freed = [] → 4096 ≤ s.casts.next → FinishesPut (.cnew d) s d 0 160)) ∧
     (∀ h e f a b ma mb, (s.ctxAt c x).waitCast = some h → s.castLook h = some e → (s.ctxAt c x).infl = some f →
       f.instr = .bwait a b ma mb →
       let ph : BitVec 32 := ((s.ctxAt c x).r.getS b).extractLsb' 0 32
       1 ≤ (e.phase - ph).toNat → (e.phase - ph).toNat < 2 ^ 31 →
       exec (.barrierWaiterRelease c x) s = .next (s.modCtx c x fun v => { v with waitCast := none })))

/-! ### Tasks (R27, R29, R230 to R232) -/

/-- R27, R230: YIELD parks the task in its context at the next bundle with a new age, READY unless its queue has an empty
bucket; AWAIT of a PENDING future parks it until the future resolves and joins the future's waiters; AWAIT of one that is not
PENDING goes on.
R231, R235, R314 to R316: TSPAWN reads the record and appends it to the queue that sB names; sD receives, 40 cycles after the bound
of the read, the append code: 3 for a queue that is not there, 1 for a full one, 2 for a record that runs beyond its tensor, and 0
with a new task in the table for one that is in order.
R29, R232, R319: TEXIT with no result or engine command outstanding ends the task: its context is FREE, it has left the
table as DONE with the value in sA, and its PENDING result future is READY with that value.
Completes: yield, await, tspawn, texit. -/
def Obligations.TaskControl : Prop :=
  (∀ (s : State) (a : SReg) (ma : Bool) (id : Nat) (e : FutEnt) (k : Task), s.Committed → s.me.r.active = false →
     s.me.task = some id → s.taskAt id = some k → k.id = id → s.me.r.loops = [] → s.cur.br = none → s.myCore.timed = false →
     let parked (i : Instr) (P : Task → State → Prop) : Prop := Does i s fun t => ∃ k', t.taskAt id = some k' ∧ P k' t ∧
       t.me.occ = .parked ∧ t.me.r = { s.me.r with pc := s.cur.next } ∧ t.cur.stop = .left ∧ ∀ z, t.byteAt z = s.byteAt z
     parked .yield (fun k' t => k'.age = s.ages ∧ t.ages = s.ages + 1 ∧
       (k'.st = .ready ∨ k'.st = .parked ∧ k'.why = .bucket)) ∧
     (s.FullS a → s.fillsOut = false →
       let h : BitVec 32 := (s.valS a).extractLsb' 0 32
       futIndex h ≠ 0 → s.futLook h = .ok e →
       (e.st = .pending → parked (.await a ma) fun k' t => k'.st = .parked ∧ k'.why = .await h ∧
         assoc t.fut.ents (futIndex h) = some { e with waiters := e.waiters ++ [.parked id] }) ∧
       (e.st ≠ .pending → exec (.await a ma) s = .next s.opDone))) ∧
  ((∀ (s u : State) (d a b : SReg) (ma mb : Bool) (bs : Option (List Byte)), s.Committed → s.FullS a → s.FullS b →
      (s.valS b).extractLsb' 7 57 = 0 →
      s.ReadsRecord (s.valS a).toNat bs u →
      let lat := (u.spawnBound (s.valS a).toNat).1 + 40
      let v := (u.spawnBound (s.valS a).toNat).2
      let die := (s.valS b).getLsbD 6
      let q : BitVec 6 := (s.valS b).extractLsb' 0 6
      (v.queueUp die q = false → FinishesFrom (.tspawn d a b ma mb) s v d 3 lat) ∧
      (v.queueUp die q = true → (v.queueAt die q).cap.toNat ≤ v.queueCount die q →
        FinishesFrom (.tspawn d a b ma mb) s v d 1 lat) ∧
      (v.queueUp die q = true → v.queueCount die q < (v.queueAt die q).cap.toNat → v.tableCount die < 16384 →
        (bs = none → FinishesFrom (.tspawn d a b ma mb) s v d 2 lat) ∧
        (∀ rec, bs = some rec → v.recordOk (expandRecord (v.queueAt die q).base rec) die = true →
          ∃ w, FinishesFrom (.tspawn d a b ma mb) s w d 0 lat ∧ w.nextTask = v.nextTask + 1 ∧ v.ages + 1 ≤ w.ages ∧
            (w.queueAt die q).base = expandRecord (v.queueAt die q).base rec))) ∧
   (∀ (s : State) (a : SReg) (ma : Bool) (id : Nat) (k : Task), s.Committed → s.FullS a → s.resultsOut = false →
      s.me.task = some id → s.taskAt id = some k → k.scan = none →
      Does (.texit a ma) s fun t => t.me.occ = .free ∧ t.me.task = none ∧ t.taskAt id = none ∧
        (⟨id, some (s.valS a)⟩ : Ended) ∈ t.ended ∧ t.cur.stop = .left ∧ (∀ z, t.byteAt z = s.byteAt z) ∧
        ∀ e, s.futLook k.tr.res = .ok e → e.st = .pending → futIndex k.tr.res ≠ 0 →
          assoc t.fut.ents (futIndex k.tr.res) = some { e with st := .ready, val := s.valS a, waiters := [] }))

/-! ### System registers (R71 to R77, R119, R121, R238, R382) -/

/-- R18, R19, R71 to R75, R119, R121, R238, R371, R382, R417: SYSR gives, in the next slot, the register that its number names: those of any mode, and
the supervisor ones in supervisor mode. FFLAGS and FEREC are read only while no operation that can raise a flag is outstanding.
R71, R238: a number outside the map raises the illegal-operand exception, and a supervisor register in user mode the
privilege exception, for reads and for writes, before any commit and with no other effect.
R73, R74, R119, R121, R238: a write below 0x020 takes effect at once and changes its register only: STATUS its UIEN, DBGEN in supervisor
mode and its write-one-to-clear bits; FFLAGS, with the flags of what ends while slots to the left stall the bundle, clears the flags written one and sets TEN; FEREC and UICAUSE clear when their low
or VALID bit is written one; UIVEC, UIEPC and BRKSKIP take the value; a read-only register discards it.
R64, R75, R77, R238, R371, R382, R417: a supervisor write at 0x020 or above, after its commit: a partition of a FREE context that lies
within the 16 units and meets no other one; a save area, 64-byte aligned; the trap registers, of which TVAL, TOVID and TOV are
read-only; the scan control and the expected signature; the other scan registers are read-only; of the error log the notification
control, the selected core, the two flags that writing one clears, and the removal of entry 0 by its SEQ. A partition that breaks
its rule raises the illegal-operand exception.
Completes: sysr, sysw. -/
def Obligations.SystemRegisters : Prop :=
  ((∀ (s : State) (d : SReg) (n : BitVec 12) (v : Word),
      let k := s.myCore
      let c := s.me
      ((n, v) ∈ ([
          (0x010, BitVec.ofNat 64 (s.cur.ctx.toNat + 4 * (s.logicalOf s.cur.core).getD 0
            + 256 * (if s.cur.core.getLsbD 6 then 1 else 0) + 65536 * s.dev.devNo.toNat)),
          (0x000, match s.variant with
            | .hx940 => 0x400101FE03
            | .hx930 => 0x300101FD83
            | .hx920 => 0x2001000D01),
          (0x001, 0x01010101),
          (0x002, BitVec.ofNat 64 (24 + 256 * s.dev.memGib.toNat + 65536 * 32 + 2 ^ 24 * 16 + 2 ^ 32 * 12 + 2 ^ 40 * 6)),
          (0x003, BitVec.ofNat 64 (4 + 16 * 1700 + 65536 * 16 + 2 ^ 24 * 96 + 2 ^ 32 * 512)),
          (0x004, s.dev.funcReady), (0x014, c.uivec), (0x015, c.uiepc), (0x016, c.uicause), (0x018, BitVec.ofNat 64 k.cycle),
          (0x019, BitVec.ofNat 64 (s.dev.tb.units / 17))] : List (BitVec 12 × Word)) → Puts (.sysr d n) s d v 1) ∧
      (∃ st, Puts (.sysr d 0x011) s d st 1 ∧ st.getLsbD 0 = c.r.mode ∧ st.getLsbD 1 = c.r.dbgen ∧ st.getLsbD 2 = c.r.uien ∧
        st.getLsbD 3 = c.r.inui ∧ st.getLsbD 4 = k.timed ∧ st &&& 0xFFFFFFFFFFFFFFE0 = c.statusHi &&& 0x300) ∧
      (s.flagsOut = false → Puts (.sysr d 0x012) s d c.r.fflags 1 ∧ Puts (.sysr d 0x013) s d c.r.ferec 1) ∧
      (s.flagsOut = true → Blocks (.sysr d 0x012) s ∧ Blocks (.sysr d 0x013) s) ∧
      (c.r.mode = true → (n, v) ∈ (([(0x01A, k.brkskip),
          (0x020, k.dfPart[0]), (0x021, k.dfPart[1]), (0x022, k.dfPart[2]), (0x023, k.dfPart[3]),
          (0x024, k.saveBase[0]), (0x025, k.saveBase[1]), (0x026, k.saveBase[2]), (0x027, k.saveBase[3]),
          (0x030, c.tr.tvec), (0x032, c.tr.tepc), (0x033, c.tr.tstatus), (0x034, c.tr.tval), (0x035, c.tr.tovid),
          (0x036, c.tr.tov[0]), (0x037, c.tr.tov[1]), (0x038, c.tr.tov[2]), (0x039, c.tr.tov[3]), (0x03A, c.tr.tov[4]), (0x03B, c.tr.tov[5]),
          (0x03C, c.tr.tov[6]), (0x03D, c.tr.tov[7])] : List (BitVec 12 × Word)) ++ ([(0x03E, c.tr.tscr[0]), (0x03F, c.tr.tscr[1]),
          (0x101, s.log.ctl), (0x102, 0), (0x104, s.log.ce), (0x105, s.log.ue), (0x106, s.log.esc), (0x107, s.log.retired),
          (0x108, s.log.coreSel),
          (0x200, k.scanCtl), (0x201, k.scanSigx), (0x202, k.scanSigm), (0x203, k.scanStat), (0x204, k.scanStart)] : List (BitVec 12 × Word))) → Puts (.sysr d n) s d v 1) ∧
      (c.r.mode = true → ∃ w, Puts (.sysr d 0x031) s d w 1 ∧ w.getLsbD 63 = c.r.active ∧
        w.extractLsb' 0 63 = c.tr.tcause.extractLsb' 0 63) ∧
      (c.r.mode = true → s.log.entries.length ≤ 48 → ∃ w, Puts (.sysr d 0x100) s d w 1 ∧
        (w.extractLsb' 0 6).toNat = s.log.entries.length ∧ w.getLsbD 8 = s.log.ovf ∧ w.getLsbD 9 = s.log.cedrop ∧
        w.extractLsb' 16 16 = s.log.nextSeq) ∧
      (c.r.mode = true → let sel := s.coreAt (s.log.coreSel.extractLsb' 0 7)
        ∃ w, Puts (.sysr d 0x109) s d w 1 ∧ (w.extractLsb' 0 4).toNat = s.winOf (s.log.coreSel.extractLsb' 0 7) ∧
        w.getLsbD 4 = sel.suspect ∧ w.getLsbD 5 = sel.wings ∧ w.extractLsb' 16 16 = sel.ceCount) ∧
      (c.r.mode = true → ∀ j i, j < 48 → i < 4 → Puts (.sysr d (BitVec.ofNat 12 (0x140 + 4 * j + i))) s d
        (match s.log.entries[j]? with
          | some e => e.reg i
          | none => 0) 1)) ∧
   (∀ (s : State) (d : SReg) (n : BitVec 12), s.CanTrap → s.FullS d →
      (n ∈ ([0x005, 0x00F, 0x017, 0x01B, 0x01F, 0x028, 0x02F, 0x040, 0x0FF, 0x103, 0x205, 0xFFF] : List (BitVec 12)) →
        Traps (.sysr d n) s .illegalOperand ∧ Traps (.sysw d n) s .illegalOperand) ∧
      (s.me.r.mode = false →
        n ∈ ([0x01A, 0x020, 0x023, 0x024, 0x027, 0x030, 0x031, 0x03F, 0x100, 0x200, 0x204] : List (BitVec 12)) →
        Traps (.sysr d n) s .privilege ∧ Traps (.sysw d n) s .privilege))) ∧
  ((∀ (s : State) (a : SReg) (n : BitVec 12), s.FullS a →
      let w := s.valS a
      exec (.sysw a 0x011) s = .next (s.modMe fun v => { v with
        r := { v.r with uien := w.getLsbD 2, dbgen := if v.r.mode then w.getLsbD 1 else v.r.dbgen }
        statusHi := v.statusHi &&& ~~~(w &&& 0x300) }) ∧
      (s.cur.late = 0 → s.catchUp = s) ∧
      (∃ f, exec (.sysw a 0x012) s = .next (s.catchUp.modMe fun v => { v with r := { v.r with fflags := f } }) ∧
        (∀ i, i < 40 → f.getLsbD i = (s.catchUp.me.r.fflags.getLsbD i && !w.getLsbD i)) ∧
        (∀ i, 40 ≤ i → i < 45 → f.getLsbD i = w.getLsbD i) ∧ f.extractLsb' 45 19 = 0) ∧
      exec (.sysw a 0x013) s = .next (s.catchUp.modMe fun v => { v with
        r := { v.r with ferec := if w.getLsbD 63 then 0 else v.r.ferec } }) ∧
      exec (.sysw a 0x014) s = .next (s.modMe fun v => { v with uivec := w }) ∧
      exec (.sysw a 0x015) s = .next (s.modMe fun v => { v with uiepc := w }) ∧
      exec (.sysw a 0x016) s = .next (s.modMe fun v => { v with uicause := if w.getLsbD 0 then 0 else v.uicause }) ∧
      (n ∈ ([0x000, 0x001, 0x002, 0x003, 0x004, 0x010, 0x018, 0x019] : List (BitVec 12)) → exec (.sysw a n) s = .next s) ∧
      (s.me.r.mode = true → exec (.sysw a 0x01A) s = .next (s.modMyCore fun k => { k with brkskip := w }))) ∧
   (∀ (s : State) (a : SReg) (n : BitVec 12) (x : CtxId), s.FullS a → s.Committed → s.me.r.mode = true →
      let w := s.valS a
      let base := w.toNat % 16
      let size := w.toNat / 256 % 16
      let part (y : CtxId) : Nat × Nat := ((s.myCore.dfPart[y.toNat]'y.isLt).toNat % 16, (s.myCore.dfPart[y.toNat]'y.isLt).toNat / 256 % 16)
      let ok := (s.myCore.ctxAt x).occ = .free ∧ 1 ≤ size ∧ size ≤ 13 ∧ base + size ≤ 16 ∧
        ∀ y, y ≠ x → base + size ≤ (part y).1 ∨ (part y).1 + (part y).2 ≤ base
      (ok → exec (.sysw a (0x020 + x.setWidth 12)) s =
        .next (s.modMyCore fun k => { k with dfPart := k.dfPart.set x.toNat (w &&& 0xF0F) x.isLt }).opDone) ∧
      (¬ ok → s.CanTrap → OpTraps (.sysw a (0x020 + x.setWidth 12)) s .illegalOperand) ∧
      exec (.sysw a (0x024 + x.setWidth 12)) s =
        .next (s.modMyCore fun k => { k with saveBase := k.saveBase.set x.toNat (w &&& 0xFFFFFFFFFFFFFFC0) x.isLt }).opDone ∧
      exec (.sysw a 0x030) s = .next (s.modMe fun v => { v with tr := { v.tr with tvec := w &&& 0x800000000000FFFF } }).opDone ∧
      (∃ c : Word, exec (.sysw a 0x031) s = .next (s.modMe fun v => { v with
          tr := { v.tr with tcause := c }, r := { v.r with active := w.getLsbD 63 } }).opDone ∧
        c.extractLsb' 8 3 = w.extractLsb' 8 3 ∧ c.extractLsb' 16 2 = w.extractLsb' 16 2 ∧
        c &&& ~~~(0x30700#64) = s.me.tr.tcause &&& ~~~(0x30700#64)) ∧
      exec (.sysw a 0x032) s = .next (s.modMe fun v => { v with tr := { v.tr with tepc := w &&& 0xFFFF } }).opDone ∧
      exec (.sysw a 0x033) s = .next (s.modMe fun v => { v with tr := { v.tr with tstatus := w &&& 0x31F } }).opDone ∧
      exec (.sysw a 0x03E) s = .next (s.modMe fun v => { v with tr := { v.tr with tscr := v.tr.tscr.set 0 w } }).opDone ∧
      exec (.sysw a 0x03F) s = .next (s.modMe fun v => { v with tr := { v.tr with tscr := v.tr.tscr.set 1 w } }).opDone ∧
      exec (.sysw a 0x200) s = .next (s.modMyCore fun k => { k with scanCtl := w &&& 0x13F0F }).opDone ∧
      exec (.sysw a 0x201) s = .next (s.modMyCore fun k => { k with scanSigx := w }).opDone ∧
      (let log (f : ErrLog → ErrLog) : State := State.opDone { s with log := f s.log }
       exec (.sysw a 0x100) s = .next (log fun g => { g with ovf := g.ovf && !w.getLsbD 8, cedrop := g.cedrop && !w.getLsbD 9 }) ∧
       exec (.sysw a 0x101) s = .next (log fun g => { g with ctl := w &&& 0x13F }) ∧
       (∀ e es, s.log.entries = e :: es → exec (.sysw a 0x102) s =
         .next (if e.seq = w.extractLsb' 0 16 then log fun g => { g with entries := es } else s.opDone)) ∧
       (s.log.entries = [] → exec (.sysw a 0x102) s = .next s.opDone) ∧
       exec (.sysw a 0x108) s = .next (log fun g => { g with coreSel := w &&& 0x7F }) ∧
       (0x104 ≤ n.toNat ∧ n.toNat ≤ 0x107 ∨ n = 0x109 ∨ 0x140 ≤ n.toNat ∧ n.toNat ≤ 0x1FF → exec (.sysw a n) s = .next s.opDone)) ∧
      (n ∈ ([0x034, 0x035, 0x036, 0x03D, 0x202, 0x203, 0x204] : List (BitVec 12)) → exec (.sysw a n) s = .next s.opDone)))

/-! ### Exceptions and returns (R237, R239 to R241, R384 to R388) -/

/-- R239, R240, R384, R385: TRAP, and BRK with DBGEN 1, enter the handler with the next bundle's address in TEPC, SLOT 0, the code 0x09 or
0x0A, the immediate in TCAUSE[31:20] and no overlay; every register of the context but pc, MODE, UIEN and ACTIVE keeps its
value, and no byte of memory changes. BRK with DBGEN 0 only counts one more in BRKSKIP.
R239, R387: ERET in supervisor mode: MODE, DBGEN and UIEN come from TSTATUS, ACTIVE is cleared, and the bundle at TEPC is re-entered from
position SLOT, with the four cycles of the return, also where TEPC is no multiple of 4 (the model's choice, log 36); nothing else of the context changes. After a timing trap it clears ACTIVE and
starts a commit, after which the task parks at TEPC or, when bit 16 of TCAUSE says so, fails. In user mode ERET raises the
privilege exception.
R237: UIRET in a user-level handler ends it and goes on at UIEPC, whose bit 15 gives the half (the model's reading, log 37); outside one it raises the illegal-operand exception.
R241: HALT in supervisor mode, alone in a bundle with RS, halts the context at the next bundle after its commit, with no
user-level interrupt pending.
Completes: trap, eret, uiret, brk, halt. -/
def Obligations.TrapsReturnsAndHalt : Prop :=
  (∀ (s : State) (n : BitVec 12), s.me.r.loops = [] → s.cur.br = none →
     let entered (code : Byte) (t : State) : Prop :=
       OnlyCtx s.cur.core s.cur.ctx s t ∧
       t.me.r = { s.me.r with pc := s.me.tr.tvec.extractLsb' 0 16, mode := true, uien := false, active := true } ∧
       t.me.tr.tepc = s.cur.next.setWidth 64 ∧ t.me.tr.tstatus = statusOf s.myCore s.me ∧ t.me.tr.tval = 0 ∧
       t.me.tr.tovid = 0 ∧ t.me.tr.tcause.extractLsb' 0 8 = code ∧ t.me.tr.tcause.extractLsb' 8 3 = 0 ∧
       t.me.tr.tcause.extractLsb' 20 12 = n ∧ t.me.gate = s.me.gate ∧ t.me.pend = s.me.pend ∧
       t.me.opened = s.me.opened ∧ t.cur.stop = .trapped
     (s.CanTrap → Does (.trap n) s (entered 0x09) ∧ (s.me.r.dbgen = true → Does (.brk n) s (entered 0x0A))) ∧
     (s.me.r.dbgen = false → exec (.brk n) s = .next (s.modMyCore fun k => { k with brkskip := k.brkskip + 1 }))) ∧
  ((∀ (s : State),
      (s.me.r.mode = true → s.me.tr.fromTiming = false → Does .eret s fun t =>
        OnlyCtx s.cur.core s.cur.ctx s t ∧
        t.me.r = { s.me.r with mode := s.me.tr.tstatus.getLsbD 0, dbgen := s.me.tr.tstatus.getLsbD 1
                               uien := s.me.tr.tstatus.getLsbD 2, active := false, pc := s.me.tr.tepc.extractLsb' 0 16 } ∧
        t.me.reslot = some (s.me.tr.tcause.extractLsb' 8 3) ∧
        { t.me with r := s.me.r, reslot := s.me.reslot, predAge := s.me.predAge } = s.me ∧
        t.cur.stop = .left ∧ t.cur.cost = s.cur.cost + 3) ∧
      (s.me.r.mode = true → s.me.tr.fromTiming = true → Does .eret s fun t =>
        OnlyCtx s.cur.core s.cur.ctx s t ∧ t.me.r = { s.me.r with active := false } ∧
        t.me.after = (if s.me.tr.tcause.getLsbD 16 then .failTask else .parkAt (s.me.tr.tepc.extractLsb' 0 16)) ∧
        t.me.cm.phase = (if s.myCore.busyFor s.cur.ctx then .drain else .horizon) ∧ t.me.gate = s.me.gate ∧ t.cur.stop = .left) ∧
      (s.me.r.mode = false → s.CanTrap → Traps .eret s .privilege)) ∧
   (∀ (s : State),
      (s.me.r.inui = true → Does .uiret s fun t => OnlyCtx s.cur.core s.cur.ctx s t ∧ t.me.r = { s.me.r with inui := false } ∧
        { t.me with r := s.me.r, predAge := s.me.predAge } = s.me ∧
        t.cur = { s.cur with br := some (s.me.uiepc.extractLsb' 0 16), cost := s.cur.cost + 1 }) ∧
      (s.me.r.inui = false → s.CanTrap → Traps .uiret s .illegalOperand) ∧
      (s.me.r.mode = true → s.cur.isolated = true → s.Committed → s.me.r.loops = [] → s.cur.br = none →
         s.me.uiReady = false → s.me.occ = .running → Does .halt s fun t =>
        OnlyCtx s.cur.core s.cur.ctx s t ∧ t.me.halted = true ∧ t.me.cm = CommitState.idle ∧
        t.me.r = { s.me.r with pc := s.cur.next } ∧ t.me.gate = s.me.gate ∧ t.cur.stop = .left) ∧
      (s.CanTrap → (s.me.r.mode = false → Traps .halt s .privilege) ∧
        (s.me.r.mode = true → s.cur.isolated = false → Traps .halt s .illegalOperand))))

/-- R242, R243, R245: WAITT passes once TIME has reached sA and blocks before; TOUT queues an entry of its region, illegal with
nonzero bits [63:32] of sB; IMSUM gives CRC-32C of n bytes of the scratchpad in 8 + n/64 cycles, rounded up, once no IMLD of the
context is outstanding.
Completes: waitt, tout, imsum. -/
def Obligations.TimeOutputsAndSums : Prop :=
  (∀ (s : State) (d a b : SReg) (ma mb : Bool), s.FullS a → Memory.wf s.myCore.scratch = true →
    let x := s.valS a
    (x.toNat ≤ s.timeNs → exec (.waitt a ma) s = .next s) ∧ (s.timeNs < x.toNat → Blocks (.waitt a ma) s) ∧
    (s.FullS b →
      let y := s.valS b
      (y.extractLsb' 32 32 = 0 → s.me.touts.length < 8 → exec (.tout a b ma mb) s =
        .next (s.modMe fun v => { v with touts := v.touts ++ [⟨x, y.extractLsb' 16 16, y.extractLsb' 0 16⟩] })) ∧
      (y.extractLsb' 32 32 = 0 → s.me.touts.length = 8 → s.me.opened = true → s.me.solo = false → Does (.tout a b ma mb) s fun t =>
        t.me.r = s.me.ckpt ∧ t.me.gate = [] ∧ t.me.touts = [] ∧ t.me.solo = true ∧ ∀ z, t.byteAt z = s.byteAt z) ∧
      (y.extractLsb' 32 32 ≠ 0 → s.CanTrap → Traps (.tout a b ma mb) s .illegalOperand) ∧
      let n := y.toNat
      let ok := 1 ≤ n ∧ n ≤ 32768 ∧ x.toNat < 65536 ∧ x.toNat / 32768 = (x.toNat + n - 1) / 32768
      (ok → s.imldOut = false → Puts (.imsum d a b ma mb) s d
        ((crc32c ((List.range n).map fun i => cellGet s.myCore.scratch (x.toNat + i))).setWidth 64) (8 + (n + 63) / 64)) ∧
      (ok → s.imldOut = true → Blocks (.imsum d a b ma mb) s) ∧
      (¬ ok → s.CanTrap → Traps (.imsum d a b ma mb) s .illegalOperand))) ∧
  crc32c [0x31, 0x32, 0x33, 0x34, 0x35, 0x36, 0x37, 0x38, 0x39] = 0xE3069283

/-! ### Save areas (R64, R247 to R249, R403) -/

/-- R247, R248: CTXSAVE of a PARKED context whose area can be stored to: each line of the area is written whole: the pc at 0x08, FFLAGS at
0x18, the scalar registers from 0x100, the spill store from 0x1000, the slabs of the partition from 0x2000 and their
sidecars behind them; the lines' poison goes, the context is FREE and its task knows its area; no other byte changes.
Completes: ctxsave. -/
def Obligations.ContextSave : Prop :=
  ∀ (s : State) (a : SReg) (ma : Bool) (x : CtxId) (pas : List Nat), s.FullS a → s.valS a = x.setWidth 64 → s.Committed →
    s.me.r.mode = true → s.cur.isolated = true → x ≠ s.cur.ctx →
    let k := s.myCore
    let v := k.ctxAt x
    let base := k.saveBase[x.toNat]'x.isLt
    let n := k.partSlabs x
    v.occ = .parked → k.fillsOf x = false → base ≠ 0 → s.areaOf base.toNat (k.partUnits x) true = .ok pas →
    pas.Nodup → (∀ p ∈ pas, p % 64 = 0) →
    Memory.wf s.mem = true → Memory.wf v.spill = true → Memory.wf k.df = true → Memory.wf k.side = true →
    Finishes (.ctxsave a ma) s fun t =>
      let at_ (off : Nat) : Byte := t.byteAt (pas.getD (off / 64) 0 + off % 64)
      (∀ i, i < 8 → at_ (0x08 + i) = BitVec.ofNat 8 (v.r.pc.toNat / 256 ^ i) ∧
        at_ (0x18 + i) = BitVec.ofNat 8 (v.r.fflags.toNat / 256 ^ i) ∧
        ∀ r : SReg, r ≠ 0 → at_ (0x100 + 8 * r.toNat + i) = BitVec.ofNat 8 ((v.r.s[r.toNat]'r.isLt).toNat / 256 ^ i)) ∧
      (∀ i, i < 4096 → at_ (0x1000 + i) = cellGet v.spill i) ∧
      (∀ i, i < n * 2048 → at_ (0x2000 + i) = cellGet k.df (k.slabAddr x 0 + i)) ∧
      (∀ i, i < n * 128 → at_ (0x2000 + n * 2048 + i) = cellGet k.side (k.sideAddr x 0 + i)) ∧
      (∀ z, lineOf z ∉ pas.map lineOf → t.byteAt z = s.byteAt z) ∧
      (∀ l ∈ pas.map lineOf, l ∉ t.coh.poison) ∧
      (t.ctxAt s.cur.core x).occ = .free ∧ (t.ctxAt s.cur.core x).task = none ∧
      ∀ id q, v.task = some id → s.taskAt id = some q →
        t.taskAt id = some { q with loc := none, saved := some (base, k.partUnits x), infl := v.infl }

/-- R247, R248: CTXLOAD into a FREE context from an area that can be read, is not poisoned and passes the checks: the context is
PARKED with every register full and with the pc, the modes, the scalar registers, the spill store and the slabs of the area; no
byte of memory changes.
R241, R247, R249, R403: CTXSAVE and CTXLOAD raise the illegal-operand exception for a value of sA above 3, for the issuing context itself,
without a save area, for a context that is not PARKED or not FREE, and for an area that fails a check; the tile-table exception, with its
address, for a byte that cannot be reached or is poisoned; in user mode the privilege exception.
Completes: ctxload. -/
def Obligations.ContextLoadAndAreaTraps : Prop :=
  (∀ (s : State) (a : SReg) (ma : Bool) (x : CtxId) (pas : List Nat), s.FullS a → s.valS a = x.setWidth 64 → s.Committed →
     s.me.r.mode = true → s.cur.isolated = true → x ≠ s.cur.ctx →
     let k := s.myCore
     let base := k.saveBase[x.toNat]'x.isLt
     let n := k.partSlabs x
     (k.ctxAt x).occ = .free → base ≠ 0 → s.areaOf base.toNat (k.partUnits x) false = .ok pas →
     s.areaPoison base.toNat pas = none → imageOk (k.partUnits x) (s.areaImage pas) = true →
     Memory.wf s.mem = true → Memory.wf k.df = true →
     let at_ (off : Nat) : Byte := s.byteAt (pas.getD (off / 64) 0 + off % 64)
     let word (off : Nat) : Word := BitVec.ofNat 64 (leVal ((List.range 8).map fun i => at_ (off + i)))
     Finishes (.ctxload a ma) s fun t =>
       let w := t.ctxAt s.cur.core x
       w.occ = .parked ∧ w.r.sEmpty = 0 ∧ w.slabEmpty = [] ∧ w.gate = [] ∧
       w.r.pc = (word 0x08).extractLsb' 0 16 ∧ w.r.fflags = word 0x18 ∧
       w.r.mode = (word 0x10).getLsbD 0 ∧ w.r.dbgen = (word 0x10).getLsbD 1 ∧ w.r.uien = (word 0x10).getLsbD 2 ∧
       w.r.inui = (word 0x10).getLsbD 3 ∧ w.vshape = (word 0x40).extractLsb' 0 32 ∧
       (∀ r : SReg, r ≠ 0 → w.r.s[r.toNat]'r.isLt = word (0x100 + 8 * r.toNat)) ∧
       (∀ i, i < 4096 → cellGet w.spill i = at_ (0x1000 + i)) ∧
       (∀ i, i < n * 2048 → cellGet (t.coreAt s.cur.core).df (k.slabAddr x 0 + i) = at_ (0x2000 + i)) ∧
       (∀ z, z < k.slabAddr x 0 ∨ k.slabAddr x n ≤ z → cellGet (t.coreAt s.cur.core).df z = cellGet k.df z) ∧
       t.mem = s.mem ∧ ∀ y, y ≠ x → t.ctxAt s.cur.core y = s.ctxAt s.cur.core y) ∧
  (∀ (s : State) (a : SReg) (ma : Bool), s.FullS a → s.CanTrap →
     let y := s.valS a
     let x : CtxId := y.extractLsb' 0 2
     let base := s.myCore.saveBase[x.toNat]'x.isLt
     let units := s.myCore.partUnits x
     let named := y.toNat < 4 ∧ x ≠ s.cur.ctx ∧ base ≠ 0
     (s.me.r.mode = false → Traps (.ctxsave a ma) s .privilege ∧ Traps (.ctxload a ma) s .privilege) ∧
     (s.me.r.mode = true → s.cur.isolated = true →
       (¬ named → Traps (.ctxsave a ma) s .illegalOperand ∧ Traps (.ctxload a ma) s .illegalOperand) ∧
       (named → (s.myCore.ctxAt x).occ ≠ .parked → Traps (.ctxsave a ma) s .illegalOperand) ∧
       (named → (s.myCore.ctxAt x).occ ≠ .free → Traps (.ctxload a ma) s .illegalOperand) ∧
       (named → (s.myCore.ctxAt x).occ = .parked → ∀ e, s.areaOf base.toNat units true = .error e →
         Does (.ctxsave a ma) s fun t => TookTrap s t .tileTable (BitVec.ofNat 64 e)) ∧
       (named → (s.myCore.ctxAt x).occ = .free → (∀ e, s.areaOf base.toNat units false = .error e →
         Does (.ctxload a ma) s fun t => TookTrap s t .tileTable (BitVec.ofNat 64 e)) ∧
         ∀ pas, s.areaOf base.toNat units false = .ok pas →
           (∀ e, s.areaPoison base.toNat (pas.take 64) = some e →
             Does (.ctxload a ma) s fun t => TookTrap s t .tileTable (BitVec.ofNat 64 e)) ∧
           (s.areaPoison base.toNat (pas.take 64) = none →
             (imageOk units (s.areaImage pas) = false → Traps (.ctxload a ma) s .illegalOperand) ∧
             (imageOk units (s.areaImage pas) = true → ∀ e, s.areaPoison base.toNat pas = some e →
               Does (.ctxload a ma) s fun t => TookTrap s t .tileTable (BitVec.ofNat 64 e))))))

/-! ### The in-field scan (R246, R418 to R422) -/

/-- R246, R418 to R420: SCAN alone on its core starts a scan and waits; the scan ends after 200 µs with the measured signature, or on an
abort, with LAST 2 and the count of aborts one higher; then SCAN writes LAST to sD. A routine scan falls due after each INTERVAL; the scan task
runs in context 0 from the start of half 0 of the scratchpad in supervisor mode, with its four arguments.
Completes: scan, scanDue, scanTaskPlacement, scanAbort, scanComplete. -/
def Obligations.Scan : Prop :=
  ∀ (s : State) (d : SReg) (c : CoreId) (v : Word),
    (s.Committed → s.me.r.mode = true → s.cur.isolated = true →
      (∀ y, y ≠ s.cur.ctx → (s.myCore.ctxAt y).occ = .free) →
      (∀ f, s.me.infl = some f → f.arrived = true → FinishesPut (.scan d) s d (BitVec.ofNat 64 (s.myCore.scanStat.toNat % 4)) 1) ∧
      (∀ f, s.me.infl = some f → f.arrived = false → s.myCore.scanRun = none → Does (.scan d) s fun t =>
        t.cur.stop = .blocked ∧ t.myCore.scanRun = some ⟨s.cur.ctx, s.timeNs, (s.readyTasks (dieOf s.cur.core)).map (·.id)⟩ ∧
        t.myCore.scanStart = BitVec.ofNat 64 s.timeNs ∧ t.me = s.me ∧ ∀ z, t.byteAt z = s.byteAt z)) ∧
    (∀ r, (s.coreAt c).scanRun = some r →
      (r.startNs + 200000 ≤ s.timeNs → Does (.scanComplete c v) s fun t =>
        (t.coreAt c).scanRun = none ∧ (t.coreAt c).scanSigm = v ∧
        (t.coreAt c).scanStat.extractLsb' 0 2 = (if v = (s.coreAt c).scanSigx then 0 else 1) ∧
        (t.ctxAt c r.ctx).infl = (s.ctxAt c r.ctx).infl.map fun f => { f with arrived := true }) ∧
      (s.timeNs < r.startNs + 200000 → exec (.scanComplete c v) s = .next s) ∧
      (s.abortDue c = true → Does (.scanAbort c) s fun t => (t.coreAt c).scanRun = none ∧
        (t.coreAt c).scanStat.extractLsb' 0 2 = 2 ∧
        ((t.coreAt c).scanStat.extractLsb' 8 8).toNat = min 255 (((s.coreAt c).scanStat.extractLsb' 8 8).toNat + 1) ∧
        (t.ctxAt c r.ctx).infl = (s.ctxAt c r.ctx).infl.map fun f => { f with arrived := true })) ∧
    ((s.coreAt c).ready = true → (s.coreAt c).wings = false →
      let die := s.dieAt (dieOf c)
      (∀ t0, assoc die.lastScan (pcoreOf c) = some t0 → die.policy.interval ≠ 0 →
        t0 + die.policy.interval.toNat * 1000000000 ≤ s.timeNs → die.scanDue.contains (pcoreOf c) = false →
        Does (.scanDue c) s fun t => (t.dieAt (dieOf c)).scanDue = die.scanDue ++ [pcoreOf c] ∧ t.cores = s.cores ∧ t.mem = s.mem)) ∧
    (s.dieReady (dieOf c) = true → s.scanReady c = true → s.scanFirst c = true →
      Does (.scanTaskPlacement c) s fun t =>
        (t.ctxAt c 0).occ = .running ∧ (t.ctxAt c 0).task = some s.nextTask ∧ (t.ctxAt c 0).r.mode = true ∧
        (t.ctxAt c 0).r.pc = 0 ∧ (t.coreAt c).scanTask = some s.nextTask ∧
        (∀ i : Fin 4, (t.ctxAt c 0).r.s[i.val + 1] = (s.scanArgs c)[i.val]'(by omega)) ∧ t.mem = s.mem)

/-! ### Vector instructions (R53 to R60, R157 to R189) -/

/-- R55, R58, R59, R164 to R166: VSETSHAPE takes a legal shape, VSETWIN a window within the partition and VSETIX an index register whose CUR
lies within BASE to LIMIT within the partition; each takes the pipe for a cycle and changes nothing else. A value against its
rule raises the illegal-operand exception.
Completes: vsetshapeReg, vsetshapeImm, vsetwin, vsetix. -/
def Obligations.VectorSetUp : Prop :=
  ∀ (s : State) (a : SReg) (ma : Bool) (w : Word32) (j : IxReg), s.FullS a →
    let x := s.valS a
    let legal (v : Word32) : Prop := ∃ ty, ElemTy.ofCode (v.extractLsb' 20 4) = some ty ∧
      1 ≤ v.toNat % 128 ∧ v.toNat % 128 ≤ 64 ∧ 1 ≤ v.toNat / 256 % 512 ∧ v.toNat / 256 % 512 ≤ 256 ∧
      v.toNat % 128 * (v.toNat / 256 % 512) * tyWidth ty ≤ 2048
    let sets (i : Instr) (P : Ctx → Prop) : Prop := Does i s fun t => OnlyMyCore s t ∧ PipeTaken s t 1 ∧ P t.me
    let fld (k : Nat) : Nat := x.toNat / 2 ^ k % 512
    let ixLegal := fld 0 < fld 16 ∧ fld 16 ≤ s.myPart ∧ fld 0 ≤ fld 32 ∧ fld 32 < fld 16
    (legal w → sets (.vsetshapeImm w) fun v => v = { s.me with vshape := w &&& 0x00F1FF7F }) ∧
    (legal (x.extractLsb' 0 32) →
      sets (.vsetshapeReg a ma) fun v => v = { s.me with vshape := x.extractLsb' 0 32 &&& 0x00F1FF7F }) ∧
    (x.toNat < s.myPart → sets (.vsetwin a ma) fun v => v = { s.me with vwin := x.setWidth 32 }) ∧
    (ixLegal → sets (.vsetix j a ma) fun v => { v with r := s.me.r } = s.me ∧ { v.r with ix := s.me.r.ix } = s.me.r ∧
      ∀ i, v.r.getIx i = if i = j then x &&& 0x01FF01FF01FF01FF else s.me.r.getIx i) ∧
    (s.CanTrap →
      (¬ legal w → Traps (.vsetshapeImm w) s .illegalOperand) ∧
      (¬ legal (x.extractLsb' 0 32) → Traps (.vsetshapeReg a ma) s .illegalOperand) ∧
      (s.myPart ≤ x.toNat → Traps (.vsetwin a ma) s .illegalOperand) ∧
      (¬ ixLegal → Traps (.vsetix j a ma) s .illegalOperand))

/-- R98, R99, R158, R161, R162, R167: the element-wise instructions on integer types: the results wrap to the type, or saturate for VADDS and
VSUBS; n passes take the pipe and the result lands P + n - 1 cycles after issue, P being 2, and 4 where it multiplies. On floating-point types
VADDS, VSUBS and VMULH raise the illegal-operand exception.
Completes: vadd, vsub, vmul, vfma, vfms, vmin, vmax, vabs, vneg, vadds, vsubs, vmulh. -/
def Obligations.VectorIntegers : Prop :=
  ∀ (s : State) (d a b : VField) (ma mb : Bool) (qa qb q : Nat), s.FullV a qa → s.FullV b qb → s.NamesV d q →
    let ty := s.shape.ty
    let w := tyWidth ty
    let n := passes s.shape.count w
    let wrap (v : Int) : Nat := (v % (2 ^ (8 * w) : Nat)).toNat
    let sat (v : Int) : Int := max (tyMin ty) (min (tyMax ty) v)
    let x (k : Nat) : Int := tyVal ty (s.elem qa k)
    let y (k : Nat) : Int := tyVal ty (s.elem qb k)
    let z (k : Nat) : Int := tyVal ty (s.elem q k)
    let gives (i : Instr) (fs : List VField) (depth : Nat) (f : Nat → Int) : Prop :=
      Yields i s fs q w s.shape.count (fun k => wrap (f k)) (depth + n - 1) n false 0
    (tyFp ty = false →
      gives (.vadd d a b ma mb) [d, a, b] 2 (fun k => x k + y k) ∧ gives (.vsub d a b ma mb) [d, a, b] 2 (fun k => x k - y k) ∧
      gives (.vmul d a b ma mb) [d, a, b] 4 (fun k => x k * y k) ∧
      gives (.vmulh d a b ma mb) [d, a, b] 4 (fun k => x k * y k / (2 ^ (8 * w) : Nat)) ∧
      gives (.vmin d a b ma mb) [d, a, b] 2 (fun k => min (x k) (y k)) ∧
      gives (.vmax d a b ma mb) [d, a, b] 2 (fun k => max (x k) (y k)) ∧
      gives (.vabs d a ma) [d, a] 2 (fun k => (x k).natAbs) ∧ gives (.vneg d a ma) [d, a] 2 (fun k => - x k) ∧
      gives (.vadds d a b ma mb) [d, a, b] 2 (fun k => sat (x k + y k)) ∧
      gives (.vsubs d a b ma mb) [d, a, b] 2 (fun k => sat (x k - y k)) ∧
      (s.FullV d q → gives (.vfma d a b ma mb) [d, a, b, d] 4 (fun k => x k * y k + z k) ∧
        gives (.vfms d a b ma mb) [d, a, b, d] 4 (fun k => z k - x k * y k))) ∧
    (tyFp ty = true → s.CanTrap → Traps (.vadds d a b ma mb) s .illegalOperand ∧
      Traps (.vsubs d a b ma mb) s .illegalOperand ∧ Traps (.vmulh d a b ma mb) s .illegalOperand)

/-- R101 to R104, R120, R123, R162, R167: the element-wise instructions on FP32 and BF16: each element is the exact result rounded once, the
NaN rules apply, and the flags of all elements are raised when the slab lands. With a trap enabled the bundle stalls for the latency; a
flag that is enabled raises the arithmetic exception, with its record, and no result is written. A number of the format is
rounded to itself with no flag.
Completes: vadd, vsub, vmul, vfma, vfms, vmin, vmax, vabs, vneg. -/
def Obligations.VectorFloat : Prop :=
  (∀ (s : State) (d a b : VField) (ma mb : Bool) (qa qb q : Nat), s.FullV a qa → s.FullV b qb → s.NamesV d q →
    tyFp s.shape.ty = true →
    let p := tyPrec s.shape.ty
    let w := tyWidth s.shape.ty
    let e := s.shape.count
    let n := passes e w
    let x (k : Nat) : Fp := Fp.ofBits p (s.elem qa k)
    let y (k : Nat) : Fp := Fp.ofBits p (s.elem qb k)
    let z (k : Nat) : Fp := Fp.ofBits p (s.elem q k)
    let gives (i : Instr) (fs : List VField) (depth : Nat) (g : Nat → FpOut) : Prop :=
      Yields i s fs q w e (fun k => (g k).bits) (depth + n - 1) n true (flagsUpTo e g)
    (s.Imprecise →
      gives (.vadd d a b ma mb) [d, a, b] 4 (fun k => fpAdd p .rne (x k) (y k)) ∧
      gives (.vsub d a b ma mb) [d, a, b] 4 (fun k => fpAdd p .rne (x k) (y k).flip) ∧
      gives (.vmul d a b ma mb) [d, a, b] 4 (fun k => fpMul p (x k) (y k)) ∧
      gives (.vmin d a b ma mb) [d, a, b] 4 (fun k => fpPick p false (s.elem qa k) (s.elem qb k)) ∧
      gives (.vmax d a b ma mb) [d, a, b] 4 (fun k => fpPick p true (s.elem qa k) (s.elem qb k)) ∧
      gives (.vabs d a ma) [d, a] 4 (fun k => fpSign p (s.elem qa k) fun _ => false) ∧
      gives (.vneg d a ma) [d, a] 4 (fun k => fpSign p (s.elem qa k) not) ∧
      (s.FullV d q →
        gives (.vfma d a b ma mb) [d, a, b, d] 6 (fun k => fpFma p (x k) (y k) (z k)) ∧
        gives (.vfms d a b ma mb) [d, a, b, d] 6 (fun k => fpFma p (x k).flip (y k) (z k)))) ∧
    (let fl := flagsUpTo e fun k => fpAdd p .rne (x k) (y k);
      s.me.r.ten ≠ 0 →
      (fl &&& s.me.r.ten = 0 → Does (.vadd d a b ma mb) s fun t => t.cur.cost = s.cur.cost + (3 + n - 1) ∧
        t.me.pend.length = s.me.pend.length + 1) ∧
      (fl &&& s.me.r.ten ≠ 0 → s.CanTrap → s.me.r.ferec.getLsbD 63 = false → Does (.vadd d a b ma mb) s fun t =>
        t.me.pend = s.me.pend ∧ t.me.slabEmpty = s.me.slabEmpty ∧ t.me.r.fflags = s.me.r.fflags ∧
        t.me.r.ferec = ferecOf s.cur.addr s.cur.pos fl true ∧ t.me.tr.tcause.extractLsb' 0 8 = 0x04 ∧
        t.me.r.pc = s.me.tr.tvec.extractLsb' 0 16 ∧ t.cur.stop = .trapped))) ∧
  (∀ (p b : Nat) (rm : RM), p = 8 ∨ p = 24 → b < 2 ^ (p + 8) →
    ((Fp.ofBits p b).isNan = false → (Fp.ofBits p b).round p rm = ⟨b, 0⟩) ∧
    ((Fp.ofBits p b).isNan = true → (Fp.ofBits p b).round p rm = ⟨511 * 2 ^ (p - 2), 0⟩))

/-- R162, R168, R170, R173 to R177: the instructions on bit patterns: logic, shifts by the amount modulo the width, selection under a mask, the
splats, the broadcast, VINS, VIOTA and VCOPY.
R162, R178 to R180: VPERM takes the element that each NAT16 index names, or zero beyond the array; VTRANS transposes; VGATH and VSCAT read
and write elements of the eight slabs from the one named, all of which a scatter leaves empty until it lands. Each has its bounds, beyond
which it raises the illegal-operand exception.
The table of R162 gives VSEL, VSPLAT and VBCAST a depth on integer types only; that they have it on floating-point types too is
the model's choice (log 48).
Completes: vand, vor, vxor, vnot, vshl, vshr, vsra, vsel, vsplatReg, vsplatImm, vbcast, vins, viota, vperm, vtrans, vgath,
vscat, vcopy. -/
def Obligations.VectorRearrangement : Prop :=
  (∀ (s : State) (d a b : VField) (m : KReg) (c e : SReg) (ma mb : Bool) (i32 : Word32) (qa qb q : Nat),
     s.FullV a qa → s.FullV b qb → s.NamesV d q → s.FullS c → s.FullS e →
     let ty := s.shape.ty
     let w := tyWidth ty
     let cols := s.shape.cols
     let n := passes s.shape.count w
     let bitsN := 8 * w
     let x := s.elem qa
     let y := s.elem qb
     let gives (i : Instr) (fs : List VField) (f : Nat → Nat) : Prop :=
       Yields i s fs q w s.shape.count f (n + 1) n (tyFp ty) 0
     gives (.vand d a b ma mb) [d, a, b] (fun k => (x k &&& y k) % 2 ^ bitsN) ∧
     gives (.vor d a b ma mb) [d, a, b] (fun k => (x k ||| y k) % 2 ^ bitsN) ∧
     gives (.vxor d a b ma mb) [d, a, b] (fun k => (x k ^^^ y k) % 2 ^ bitsN) ∧
     gives (.vnot d a ma) [d, a] (fun k => (2 ^ bitsN - 1 - x k) % 2 ^ bitsN) ∧
     gives (.vshl d a b ma mb) [d, a, b] (fun k => x k * 2 ^ (y k % bitsN) % 2 ^ bitsN) ∧
     gives (.vshr d a b ma mb) [d, a, b] (fun k => x k / 2 ^ (y k % bitsN) % 2 ^ bitsN) ∧
     gives (.vsra d a b ma mb) [d, a, b]
       (fun k => (signedOf bitsN (x k) / 2 ^ (y k % bitsN) % (2 ^ bitsN : Nat)).toNat % 2 ^ bitsN) ∧
     (s.FullV d q → gives (.vsel d a m ma) [d, a] (fun k => if (s.me.r.getK m).getLsbD k then x k else s.elem q k)) ∧
     gives (.vsplatReg d c ma) [d] (fun _ => (s.valS c).toNat) ∧
     gives (.vsplatImm d i32) [d] (fun _ => (i32.signExtend 64).toNat) ∧
     (let j := (s.valS c).toNat % 4096;
       ((s.valS c).getLsbD 16 = true → j < cols → gives (.vbcast d a c ma mb) [d, a] fun k => x (k / cols * cols + j)) ∧
       ((s.valS c).getLsbD 16 = false → j < s.shape.rows → gives (.vbcast d a c ma mb) [d, a] fun k => x (j * cols + k % cols)) ∧
       (s.CanTrap → ((s.valS c).getLsbD 16 = true ∧ cols ≤ j ∨ (s.valS c).getLsbD 16 = false ∧ s.shape.rows ≤ j) →
         Traps (.vbcast d a c ma mb) s .illegalOperand)) ∧
     (s.FullV d q → (s.valS e).toNat < s.shape.count → Does (.vins d c e ma mb) s fun t =>
       VecQueued s t [d] [q] (slabCells (s.myCore.slabAddr s.cur.ctx q + (s.valS e).toNat * w) (leBytes w (s.valS c).toNat)) []
         2 1 (tyFp ty) 0) ∧
     (s.FullV d q → s.shape.count ≤ (s.valS e).toNat → s.CanTrap → Traps (.vins d c e ma mb) s .illegalOperand) ∧
     (tyFp ty = false → gives (.viota d m) [d] fun k => ((List.range k).filter fun j => (s.me.r.getK m).getLsbD j).length) ∧
     (tyFp ty = true → s.CanTrap → Traps (.viota d m) s .illegalOperand) ∧
     Does (.vcopy d a ma) s (fun t => VecQueued s t [d, a] [q]
       (slabCells (s.myCore.slabAddr s.cur.ctx q) (s.myCore.slabBytes s.cur.ctx qa)) [] 17 16 (tyFp ty) 0)) ∧
  (∀ (s : State) (d a b : VField) (ma mb : Bool) (qa qb q : Nat), s.FullV a qa → s.FullV b qb → s.NamesV d q →
     let ty := s.shape.ty
     let w := tyWidth ty
     let e := s.shape.count
     let x := s.elem qa
     let ix (k : Nat) : Nat := (s.slabElems qb 2 e).getD k 0
     let near (r : Nat) : Prop := r + 7 < s.myPart ∧ e ≤ 1024 ∧ ∀ k, k < e → ix k * w + w ≤ 16384
     let g := (e + 15) / 16
     (e ≤ 1024 → Yields (.vperm d a b ma mb) s [d, a, b] q w e (fun k => x (ix k)) (passes e (max w 2) + 4)
       (passes e (max w 2)) (tyFp ty) 0) ∧
     (s.shape.cols ≤ 64 → Yields (.vtrans d a ma) s [d, a] q w e
       (fun k => x (k % s.shape.rows * s.shape.cols + k / s.shape.rows)) (2 * passes e w + 3) (passes e w) (tyFp ty) 0) ∧
     (near qa → (∀ j, j < 8 → s.me.slabEmpty.contains (qa + j) = false) → Yields (.vgath d a b ma mb) s [d, a, b] q w e
       (fun k => cellNat s.myCore.df (s.myCore.slabAddr s.cur.ctx qa + ix k * w) w) (g + 6) g (tyFp ty) 0) ∧
     (near q → Does (.vscat d a b ma mb) s fun t => VecQueued s t [d, a, b] [q, q + 1, q + 2, q + 3, q + 4, q + 5, q + 6, q + 7]
       ((List.range e).flatMap fun k => slabCells (s.myCore.slabAddr s.cur.ctx q + ix k * w) (leBytes w (x k))) []
       (g + 6) g (tyFp ty) 0) ∧
     (s.CanTrap →
       (1024 < e → Traps (.vperm d a b ma mb) s .illegalOperand) ∧
       (64 < s.shape.cols → Traps (.vtrans d a ma) s .illegalOperand) ∧
       (¬ near qa → Traps (.vgath d a b ma mb) s .illegalOperand) ∧
       (¬ near q → Traps (.vscat d a b ma mb) s .illegalOperand)))

/-- R52, R54, R162, R169, R171, R172, R175: VCMP writes a mask at the end of its bundle's stall, with the flags of the floating-point
comparisons; KAND, KOR, KXOR and KNOT write the bits below E and zero above (k0 stays, R52); the slot words of R171 and R172; KPOPC and KTOP count the set bits below E and name the highest; VEXTR gives
an element, sign-extended for INT types.
Completes: vcmp, vextr, kand, kor, kxor, knot, kpopc, ktop. -/
def Obligations.MasksAndExtracts : Prop :=
  ∀ (s : State) (dk k1 k2 : KReg) (d c : SReg) (cc : VCond) (a b : VField) (ma mb : Bool) (qa qb : Nat),
    s.FullV a qa → s.FullV b qb → s.FullS c →
    let ty := s.shape.ty
    let e := s.shape.count
    let n := passes e (tyWidth ty)
    let x (k : Nat) : Int := tyVal ty (s.elem qa k)
    let y (k : Nat) : Int := tyVal ty (s.elem qb k)
    let cmp (k : Nat) : Bool × Flags := fpCond (tyPrec ty) cc (s.elem qa k) (s.elem qb k)
    let now (i : Instr) (f : Nat → Bool) : Prop := Does i s fun t => MaskWrote s t [] dk f 1 ∧ t.cur = s.cur ∧
      t.me.r.fflags = s.me.r.fflags
    let set (m : BitVec 2048) : List Nat := (List.range e).filter fun i => m.getLsbD i
    (tyFp ty = false → Does (.vcmp dk cc a b ma mb) s fun t =>
      MaskWrote s t [a, b] dk (fun k => match cc with
        | .eq => decide (x k = y k) | .ne => decide (x k ≠ y k) | .lt => decide (x k < y k)
        | .le => decide (x k ≤ y k) | .gt => decide (y k < x k) | .ge => decide (y k ≤ x k)) n ∧
      t.cur.cost = s.cur.cost + (n + 2 - 1 - 1) ∧ t.me.r.fflags = s.me.r.fflags) ∧
    (tyFp ty = true → s.Imprecise → Does (.vcmp dk cc a b ma mb) s fun t =>
      MaskWrote s t [a, b] dk (fun k => (cmp k).1) n ∧ t.cur.cost = s.cur.cost + (n + 4 - 1 - 1) ∧
      t.me.r.fflags = s.me.r.fflags |||
        (((List.range e).foldl (fun f k => f ||| (cmp k).2) (0 : Flags)).setWidth 64 <<< (5 * s.cur.pos.toNat))) ∧
    (let enc (i : Instr) (op : BitVec 7) (d a b : BitVec 6) : Prop := encodeSlot i = some ⟨2, op, d, a, b, false, false, []⟩
     let k6 (k : KReg) : BitVec 6 := k.setWidth 6
     enc (.kand dk k1 k2) 0x27 (k6 dk) (k6 k1) (k6 k2) ∧ enc (.kor dk k1 k2) 0x28 (k6 dk) (k6 k1) (k6 k2) ∧
     enc (.kxor dk k1 k2) 0x29 (k6 dk) (k6 k1) (k6 k2) ∧ enc (.knot dk k1) 0x2A (k6 dk) (k6 k1) 0 ∧
     enc (.kpopc d k1) 0x2B d (k6 k1) 0 ∧ enc (.ktop d k1) 0x2C d (k6 k1) 0) ∧
    now (.kand dk k1 k2) (fun i => (s.me.r.getK k1).getLsbD i && (s.me.r.getK k2).getLsbD i) ∧
    now (.kor dk k1 k2) (fun i => (s.me.r.getK k1).getLsbD i || (s.me.r.getK k2).getLsbD i) ∧
    now (.kxor dk k1 k2) (fun i => (s.me.r.getK k1).getLsbD i != (s.me.r.getK k2).getLsbD i) ∧
    now (.knot dk k1) (fun i => !(s.me.r.getK k1).getLsbD i) ∧
    Does (.kpopc d k1) s (fun t => ScalarFromV s t [] d (BitVec.ofNat 64 (set (s.me.r.getK k1)).length) (tyFp ty)) ∧
    (∃ v, Does (.ktop d k1) s (fun t => ScalarFromV s t [] d v (tyFp ty)) ∧
      (set (s.me.r.getK k1) = [] → v = BitVec.allOnes 64) ∧
      (set (s.me.r.getK k1) ≠ [] → v.toNat ∈ set (s.me.r.getK k1) ∧ ∀ i ∈ set (s.me.r.getK k1), i ≤ v.toNat)) ∧
    ((s.valS c).toNat < e → Does (.vextr d a c ma mb) s fun t =>
      ScalarFromV s t [a] d (BitVec.ofInt 64 (x (s.valS c).toNat)) (tyFp ty)) ∧
    (e ≤ (s.valS c).toNat → s.CanTrap → Traps (.vextr d a c ma mb) s .illegalOperand)

/-- R106, R116, R118, R160, R162, R181 to R186: VCVT between integer types saturates, and other conversions round once; VREQ, from every
kind of source, chooses a scale for each block of 64 elements of a row, or takes the one supplied, and writes the sidecar; VRED gives
the reduction of each row, of each column or of the array, and VSCAN that of each prefix of a row or a column, of every type and with
every operation, with the flags of all, and land 8 + n cycles after issue; on integer types a sum wraps to the type; VDOT4 adds
four products to each INT32 element and saturates; VRNG applies its mixing steps to each counter. A source type, a size or a number of
columns that one of them does not take raises the illegal-operand exception.
Completes: vcvt, vreq, vred, vscan, vdot4, vrng. -/
def Obligations.VectorConversions : Prop :=
  ∀ (s : State) (d a b : VField) (c : SReg) (ma mb : Bool) (qa qb q : Nat), s.FullV a qa → s.FullV b qb → s.NamesV d q →
    s.FullS c → s.Imprecise →
    let h := s.shape
    let e := h.count
    let w := tyWidth h.ty
    let n := passes e w
    let x := s.elem qa
    (∀ (dt : CvtDst) (src : CvtSrc) (rm : RM) (sc : Byte),
      let g (k : Nat) : FpOut := cvtOne rm sc.toNat h.ty src dt ((s.slabElems qa (cvtSrcWidth h.ty src) e).getD k 0)
      let m := passes e (max (cvtSrcWidth h.ty src) (cvtDstWidth dt))
      let ok := e * cvtDstWidth dt ≤ 2048 ∧ e * cvtSrcWidth h.ty src ≤ 2048 ∧ cvtOk h.ty src dt = true
      (ok → Yields (.vcvt d a ma dt src rm sc) s [d, a] q (cvtDstWidth dt) e (fun k => (g k).bits) (m + 3) m true
        (flagsUpTo e g)) ∧
      (¬ ok → s.CanTrap → Traps (.vcvt d a ma dt src rm sc) s .illegalOperand) ∧
      (∀ u v, tyFp h.ty = false → tyFp u = false → cvtOne rm v h.ty .shape (.plain u) (x 0) =
        ⟨(max (tyMin u) (min (tyMax u) (tyVal h.ty (x 0))) % (2 ^ (8 * tyWidth u) : Nat)).toNat, 0⟩)) ∧
    (∀ (dt : ReqDst) (src : ReqSrc) (rm : RM) (sup : Bool) (sc : Byte),
      let tg := reqTarget dt
      let old (j : Nat) : Nat := ((s.myCore.sideBytes s.cur.ctx qa).map BitVec.toNat).getD j 127
      (∀ sw, reqSrcWidth h.ty src = some sw →
        (e * sw ≤ 2048 → e * tg.width ≤ 2048 → Does (.vreq d a ma dt src rm sup sc) s fun t =>
          let blocks := blocksOf h (s.slabElems qa sw e)
          let bs := (blocks.zip (List.range blocks.length)).map fun b =>
            requantBlock tg rm (if sup then some sc.toNat else none) (b.1.map (reqValue h.ty src (old b.2)))
          VecQueued s t [d, a] [q]
            (slabCells (s.myCore.slabAddr s.cur.ctx q) (elemBytes tg.width (bs.flatMap (·.2.1))))
            (slabCells (s.myCore.sideAddr s.cur.ctx q)
              (bs.map (fun r => BitVec.ofNat 8 r.1) ++ List.replicate (128 - bs.length) (0 : Byte)))
            (2 * passes e (max sw tg.width) + 6) (2 * passes e (max sw tg.width)) true
            (bs.foldl (fun f r => f ||| r.2.2) 0)) ∧
        (2048 < e * sw ∨ 2048 < e * tg.width → s.CanTrap → Traps (.vreq d a ma dt src rm sup sc) s .illegalOperand)) ∧
      (reqSrcWidth h.ty src = none → s.CanTrap → Traps (.vreq d a ma dt src rm sup sc) s .illegalOperand)) ∧
    (∀ op axis (rm : RM),
      let row (r : Nat) : List Nat := (List.range h.cols).map fun j => x (r * h.cols + j)
      let col (j : Nat) : List Nat := (List.range h.rows).map fun r => x (r * h.cols + j)
      let rs : List (Nat × FpOut) := match axis with
        | .row => (List.range h.rows).map fun r => (r * h.cols, reduce h.ty op rm (row r))
        | .col => (List.range h.cols).map fun j => (j, reduce h.ty op rm (col j))
        | .all => [(0, reduce h.ty op rm ((List.range e).map x))]
      Does (.vred d a ma op axis rm) s fun t => VecQueued s t [d, a] [q]
        (rs.flatMap fun r => slabCells (s.myCore.slabAddr s.cur.ctx q + r.1 * w) (leBytes w r.2.bits)) [] (n + 8) n (tyFp h.ty)
        (if tyFp h.ty then rs.foldl (fun f r => f ||| r.2.fl) 0 else 0)) ∧
    (∀ op col ex,
      let g (k : Nat) : FpOut := scanStep h.ty op (if col
        then (List.range (k / h.cols + if ex then 0 else 1)).map fun i => x (i * h.cols + k % h.cols)
        else (List.range (k % h.cols + if ex then 0 else 1)).map fun i => x (k / h.cols * h.cols + i))
      Yields (.vscan d a ma op col ex) s [d, a] q w e (fun k => (g k).bits) (n + 8) n (tyFp h.ty)
        (if tyFp h.ty then flagsUpTo e g else 0)) ∧
    (tyFp h.ty = false → ∀ (rm : RM), Yields (.vred d a ma .sum .all rm) s [d, a] q w 1
      (fun _ => (((List.range e).map fun k => tyVal h.ty (x k)).sum % (2 ^ (8 * w) : Nat)).toNat) (n + 8) n false 0) ∧
    (tyFp h.ty = false → ∀ ex, Yields (.vscan d a ma .sum false ex) s [d, a] q w e
      (fun k => (((List.range (k % h.cols + if ex then 0 else 1)).map
        fun j => tyVal h.ty (x (k / h.cols * h.cols + j))).sum % (2 ^ (8 * w) : Nat)).toNat) (n + 8) n false 0) ∧
    (s.FullV d q → h.ty = .i8 ∨ h.ty = .n8 → h.cols % 4 = 0 →
      Yields (.vdot4 d a b ma mb) s [d, a, b] q 4 (e / 4)
        (fun k => (max (-(2 ^ 31)) (min (2 ^ 31 - 1) (signedOf 32 ((s.slabElems q 4 (e / 4)).getD k 0) +
          ((List.range 4).map fun j => tyVal h.ty (x (4 * k + j)) * tyVal h.ty (s.elem qb (4 * k + j))).sum)) % (2 ^ 32 : Nat)).toNat)
        (passes e 4 + 3) (passes e 4) false 0) ∧
    (s.FullV d q → s.CanTrap → ¬ ((h.ty = .i8 ∨ h.ty = .n8) ∧ h.cols % 4 = 0) → Traps (.vdot4 d a b ma mb) s .illegalOperand) ∧
    (s.CanTrap → h.ty ≠ .i32 → h.ty ≠ .n32 → Traps (.vrng d a c ma mb) s .illegalOperand) ∧
    (h.ty = .i32 ∨ h.ty = .n32 →
      let key := s.valS c
      let k0 := key.toNat % 2 ^ 32
      let k1 := key.toNat / 2 ^ 32
      let mix (v : Nat) : Nat :=
        let v := (v ^^^ k0) * 0x9E3779B1 % 2 ^ 32
        let v := ((v ^^^ (v / 2 ^ 15)) + k1) % 2 ^ 32 * 0x85EBCA77 % 2 ^ 32
        v ^^^ (v / 2 ^ 13)
      Yields (.vrng d a c ma mb) s [d, a] q 4 e (fun k => mix (x k)) (passes e 4 + 5) (passes e 4) false 0)

/-- R18, R187, R188: a special-function instruction on FP32 or BF16 elements: each element is the function value, correctly rounded, which is
the model's reading of R187 (log 22); the unit takes 16 elements a cycle, at most four commands hold an entry, each up to the end of
its occupancy (the model's choice, log 59), and the slab lands 11 + n cycles after its command starts.
On an integer type it raises the illegal-operand exception; without the unit the unimplemented exception.
Completes: fexp2, flog2, frcp, frsq, fsin, fcos, ftanh, fsigm. -/
def Obligations.SpecialFunctions : Prop :=
  ∀ (s : State) (d a : VField) (ma : Bool) (qa q : Nat), s.FullV a qa → s.NamesV d q →
    let e := s.shape.count
    let p := tyPrec s.shape.ty
    let w := tyWidth s.shape.ty
    let n := (e + 15) / 16
    let held := s.myCore.sfuQ.filter fun t => decide (s.myCore.cycle < t)
    let start := held.foldl max s.now
    let lat := start - s.now + 11 + n
    let all (P : Instr → Sfu → Prop) : Prop := P (.fexp2 d a ma) .exp2 ∧ P (.flog2 d a ma) .log2 ∧ P (.frcp d a ma) .rcp ∧
      P (.frsq d a ma) .rsq ∧ P (.fsin d a ma) .sin ∧ P (.fcos d a ma) .cos ∧ P (.ftanh d a ma) .tanh ∧ P (.fsigm d a ma) .sigm
    (s.hasSfu = true → tyFp s.shape.ty = true → held.length < 4 → s.Imprecise → all fun i f =>
      let g (k : Nat) : FpOut := sfuOut p f (s.elem qa k)
      Does i s fun t => SlabQueued s t [d, a] [q]
          (slabCells (s.myCore.slabAddr s.cur.ctx q) (elemBytes w ((List.range e).map fun k => (g k).bits))) [] lat true
          (flagsUpTo e g) ∧
        t.myCore.sfuQ = held ++ [start + n] ∧
        { t.myCore with ctxs := s.myCore.ctxs, sfuQ := s.myCore.sfuQ } = s.myCore) ∧
    (s.hasSfu = true → tyFp s.shape.ty = true → 4 ≤ held.length → all fun i _ => Blocks i s) ∧
    (s.CanTrap → (s.hasSfu = false → all fun i _ => Traps i s .unimplemented) ∧
      (s.hasSfu = true → tyFp s.shape.ty = false → all fun i _ => Traps i s .illegalOperand))

/-! ### Tile instructions and the tile engine (R190 to R206, R244) -/

/-- R190, R193, R195, R197, R199, R200, R202, R204, R205, R244: a tile instruction whose operand checks pass takes an entry of the
engine's queue with its descriptors and coordinates, its kind giving the cycles of the port; loads empty their slabs, stores read
theirs; with all 16 entries held it blocks. TDESC reads the entry of its tensor once the port's cache holds it, and blocks before.
A descriptor that is not valid raises the illegal-operand exception.
R112, R114, R190, R191, R196, R198 to R201, R203, R204, R244: what the command at the head of the engine's queue does, its cycles of
the port over and its lines held. A TLD, TLDP or TLDM lands the elements of its rows in its slabs, each unpacked to its container and joined with its
extension planes, zero where the tile passes the tensor's end, with the rows' scales in the sidecar; a TLDM lands them in every
member at once (the model's choice, log 53); a TLDS lands 2,048 bytes as they are. A tile store puts the elements of its rows that lie in the
tensor, packed as the tensor holds them, into the gate, at its place of the program order, where the core has room for it and its
lines have their tokens. A TPF or TPFL completes
once every line of it has been held, the TPFL adding one to the count of prefetches done; neither writes a byte. A line of an
IMLD goes into the scratchpad. A byte that cannot be reached rolls the region back into the handler. That a TPF's cycles count the lines that it does
not skip and that are not held as its issue finds them, and that its translations are looked up then, is the model's choice (log 40).
Completes: tdesc, tld, tldp, tldm, tlds, tst, tstM, tpf, tpfl, imld, tileFillLand, tileStorePerform, tpflComplete,
imldLineArrive. -/
def Obligations.TileCommands : Prop :=
  (∀ (s : State) (d : VField) (a b c : SReg) (ma mb : Bool) (t p1 p2 : TdReg) (cnt : Byte) (q : Nat),
     s.FullS a → s.FullS b → s.FullS c →
     let x := s.valS a
     let y := s.valS b
     let e := s.me.tdOf t
     let legal := e.valid = true ∧ e.geom ≠ 3 ∧ (e.fmt = 11 → e.plane = 0) ∧ (e.geom = 0 ∨ x.toNat % 2 ^ 32 % 64 = 0)
     let occ1 := if e.geom = 2 then 13 else if e.geom = 1 then 17 else 16
     let occ (k : TileKind) : Nat := if k = .t8 then 17 else if k = .t12 then 25 else 32
     let id := x.toNat / 2 ^ 48
     let h : BitVec 32 := (s.valS c).extractLsb' 0 32
     let len := y.toNat / 65536 % 65536
     let dst := y.toNat % 65536
     let imOk := x.toNat % 64 = 0 ∧ y.toNat < 2 ^ 32 ∧ dst % 64 = 0 ∧ len % 64 = 0 ∧ 64 ≤ len ∧ len ≤ 32768 ∧
       dst / 32768 = (dst + len - 1) / 32768 ∧ dst / 32768 ≠ s.cur.addr.toNat / 32768
     let queued (i : Instr) (fs : List VField) (op : TileOp) (r : Nat) (ds : List Nat) (td e1 e2 : Desc) (u w : Word) (n : Nat) :
       Prop := (s.myCore.tileHeld < 16 → Does i s fun t => TileQueued s t fs op r ds td e1 e2 u w n) ∧
         (16 ≤ s.myCore.tileHeld → Blocks i s)
     (legal →
       (s.NamesV d q → queued (.tld d a b ma mb t) [d] .ld q [q] e 0 0 x y occ1) ∧
       (s.FullV d q → queued (.tst d a b ma mb t) [d] .st q [] e 0 0 x y occ1) ∧
       (∃ m : TileCmd, m.op = .pf ∧ m.td = e ∧ m.c0 = x.toNat % 2 ^ 32 ∧ m.c1 = x.toNat / 2 ^ 32 ∧ m.c2 = y.toNat % 2 ^ 32 ∧
         m.c3 = y.toNat / 2 ^ 32 ∧
         queued (.tpf t a b ma mb) [] .pf 0 [] e 0 0 x y
           (1 + ((s.fetchLines m).filter fun l => !s.fetchHeld s.cur.core l).length)) ∧
       queued (.tpfl t a b ma mb cnt) [] (.pfl (cnt.toNat + 1)) 0 [] e 0 0 x y (cnt.toNat + 1) ∧
       (∀ ent me, s.NamesV d q → castBad h = false → s.castLook h = some ent → s.me.task = some me → me ∈ ent.members →
         (∀ m ∈ ent.members, ∀ n, s.memberSlabs m = some n → q < n) →
         queued (.tldm d a b ma mb t c) [d] (.ldm h ent.members) q [q] e 0 0 x y occ1)) ∧
     (∀ k, multiKind s.me t p1 p2 = some k → e.geom = 0 ∨ x.toNat % 2 ^ 32 % 64 = 0 →
       (if k = .t8 then s.NamesV d q else s.NamesPair d q) →
         queued (.tldp d a b ma mb t p1 p2) [d] .ldp q (if k = .t8 then [q] else [q, q + 1]) e (s.me.tdOf p1) (s.me.tdOf p2)
           x y (occ k)) ∧
     (∀ k, multiKind s.me t p1 p2 = some k → e.geom = 0 ∨ x.toNat % 2 ^ 32 % 64 = 0 →
       (if k = .t8 then s.FullV d q else s.FullPair d q) →
         queued (.tstM d a b ma mb t p1 p2) [d] .stM q [] e (s.me.tdOf p1) (s.me.tdOf p2) x y (occ k)) ∧
     (e.valid = true → e.geom = 0 → 2 ≤ fmtWidth e.fmt → e.fmt ≠ 11 → multiKind s.me t 0 0 = some .pair) ∧
     (x.toNat % 64 = 0 → s.NamesV d q → queued (.tlds d a ma) [d] (.lds x) q [q] 0 0 0 0 0 16) ∧
     (imOk → queued (.imld a b ma mb) [] (.imld x dst len) 0 [] 0 0 0 0 0 ((len + 127) / 128)) ∧
     (s.myCore.teCache.contains id = true → Does (.tdesc t a ma) s fun u => OnlyMyCore s u ∧
       u.me = { s.me with td := s.me.td.set t.toNat (if (s.descOf id).valid then s.descOf id else 0) t.isLt }) ∧
     (s.myCore.teCache.contains id = false → Blocks (.tdesc t a ma) s) ∧
     (s.CanTrap →
       (¬ legal → Traps (.tld d a b ma mb t) s .illegalOperand ∧ Traps (.tst d a b ma mb t) s .illegalOperand ∧
         Traps (.tpf t a b ma mb) s .illegalOperand ∧ Traps (.tpfl t a b ma mb cnt) s .illegalOperand ∧
         Traps (.tldm d a b ma mb t c) s .illegalOperand) ∧
       (multiKind s.me t p1 p2 = none → Traps (.tldp d a b ma mb t p1 p2) s .illegalOperand ∧
         Traps (.tstM d a b ma mb t p1 p2) s .illegalOperand) ∧
       (x.toNat % 64 ≠ 0 → Traps (.tlds d a ma) s .illegalOperand) ∧
       (¬ imOk → Traps (.imld a b ma mb) s .illegalOperand))) ∧
  (∀ (s : State) (c : CoreId) (m : TileCmd) (rest : List TileCmd),
     (s.coreAt c).tileQ = m :: rest → m.occEnd ≤ (s.coreAt c).cycle →
     (∀ c', Memory.wf (s.coreAt c').df = true ∧ Memory.wf (s.coreAt c').side = true) →
     let k := s.coreAt c
     let v := s.ctxAt c m.x
     let w := tileWidth m.kind m.td
     let cols := tileCols w
     let base := k.slabAddr m.x m.d
     let gated (keys : List (Nat × PageKind)) : Prop := ∃ p ∈ keys, gateRead v.gate p.1 m.seq ≠ none
     let val (ks : List (Nat × PageKind)) : Nat := leVal (ks.map fun p => s.byteAt p.1)
     let field (n v i : Nat) : Nat := v / 2 ^ (n * i) % 2 ^ n
     let box (rk : RowKeys) (i : Nat) : Nat := match m.kind with
       | .t8 => field 6 (val rk.main) i * 4 + field 2 (val rk.p1) i
       | .t12 => field 6 (val rk.main) i * 1024 + field 2 (val rk.p1) i * 256 + field 4 (val rk.p2) i * 16
       | _ => if m.td.geom = 2 then field 6 (val rk.main) i * 4 else field m.td.bits (val rk.main) i
     let filled (rs : List (Option RowKeys)) (l : Core) (x : CtxId) : Prop :=
       (∀ r rk i, rs[r]? = some (some rk) → i < cols →
         cellNat l.df (l.slabAddr x m.d + (r * cols + i) * w) w = if i < rk.n then box rk i else 0) ∧
       (∀ r i, rs[r]? = some none → i < cols → cellNat l.df (l.slabAddr x m.d + (r * cols + i) * w) w = 0) ∧
       (w ≠ 4 → ∀ r rk, rs[r]? = some rk → cellGet l.side (l.sideAddr x (m.d + r / slabRows w) + r % slabRows w) =
         match rk with
         | some rk => if rk.scale = [] then 127 else BitVec.ofNat 8 (val rk.scale)
         | none => 127)
     (∀ rs, m.op = .ld ∨ m.op = .ldp → k.fillReady m = true → s.tileKeys m = .ok rs → s.EngineReads c m (rowsKeys rs) →
       ¬ gated (rowsKeys rs) → Does (.tileFillLand c) s fun t =>
         let l := t.coreAt c
         l.tileQ = rest ∧ t.mem = s.mem ∧ (t.ctxAt c m.x).r = v.r ∧ filled rs l m.x ∧
         (∀ z, z < base ∨ base + 2048 * m.kind.slabs ≤ z → cellGet l.df z = cellGet k.df z)) ∧
     (∀ rs h ids, m.op = .ldm h ids → k.fillReady m = true → s.tileKeys m = .ok rs → s.EngineReads c m (rowsKeys rs) →
       ¬ gated (rowsKeys rs) → Does (.tileFillLand c) s fun t =>
         (t.coreAt c).tileQ = rest ∧ (t.ctxAt c m.x).r = v.r ∧ (t.ctxAt c m.x).tldmSubs = v.tldmSubs ++ [h] ∧
         filled rs (t.coreAt c) m.x ∧
         (∀ id ∈ ids, ∀ u c' x', s.taskAt id = some u → u.loc = some (c', x') → c' ≠ c →
           (∀ id' ∈ ids, ∀ u' x'', s.taskAt id' = some u' → u'.loc = some (c', x'') → x'' = x') → filled rs (t.coreAt c') x') ∧
         ((∀ id ∈ ids, ∀ u, s.taskAt id = some u → u.loc ≠ none ∨ u.saved = none) → t.mem = s.mem)) ∧
     (∀ src keys, m.op = .lds src → k.fillReady m = true →
       s.keysOf false ((List.range 2048).map fun i => tensorByte src.toNat 0 i) = .ok keys → s.EngineReads c m keys →
       ¬ gated keys → Does (.tileFillLand c) s fun t =>
         let l := t.coreAt c
         l.tileQ = rest ∧ t.mem = s.mem ∧ (t.ctxAt c m.x).r = v.r ∧ l.side = k.side ∧
         (∀ i, i < 2048 → cellGet l.df (base + i) = s.byteAt (keys.getD i (0, .uncached)).1) ∧
         (∀ z, z < base ∨ base + 2048 ≤ z → cellGet l.df z = cellGet k.df z)) ∧
     (∀ rs, m.op = .st ∨ m.op = .stM → s.tileKeys m = .ok rs → m.region = v.region →
       k.HasRoom (rowsKeys rs) ((rowsKeys rs).map (·.1)) → s.spaceWaits c m.x true (rowsKeys rs) = false →
       s.guardMissing c m.x (trackedLines (rowsKeys rs)) = [] →
       s.lentAny c (trackedLines (rowsKeys rs)) = false → remoteFirsts (rowsKeys rs) = [] →
       let have_ (r i : Nat) : Nat := cellNat k.df (base + (r * cols + i) * w) w
       let pack (ks : List (Nat × PageKind)) (n b : Nat) (f : Nat → Nat) : List Byte :=
         leBytes ks.length (((List.range n).map fun i => f i % 2 ^ b * 2 ^ (b * i)).sum)
       let row (r : Nat) (rk : RowKeys) : List Byte :=
         (match m.kind with
          | .t12 => pack rk.main rk.n 6 fun i => have_ r i / 1024
          | .t8 => pack rk.main rk.n 6 fun i => have_ r i / 4
          | _ => if m.td.geom = 2 then pack rk.main rk.n 6 fun i => have_ r i / 4 else pack rk.main rk.n m.td.bits (have_ r)) ++
         (rk.scale.map fun _ => cellGet k.side (k.sideAddr m.x (m.d + r / slabRows w) + r % slabRows w)) ++
         (if m.kind = .t8 then pack rk.p1 rk.n 2 (have_ r) else pack rk.p1 rk.n 2 fun i => have_ r i / 256) ++
         pack rk.p2 rk.n 4 fun i => have_ r i / 16
       ∃ u : State, exec (.tileStorePerform c) s = .next (u.advanceDrain c m.x) ∧
         (u.coreAt c).tileQ = rest ∧ u.mem = s.mem ∧ (u.ctxAt c m.x).r = v.r ∧ (u.coreAt c).df = k.df ∧
         (u.ctxAt c m.x).gate = v.gate ++ ((rowsKeys rs).zip ((rs.zip (List.range rs.length)).flatMap fun p => match p.1 with
             | some rk => row p.2 rk
             | none => [])).map fun p => ⟨p.1.1, m.seq, p.2⟩) ∧
     (∀ n, m.op = .pfl n → (∀ l ∈ m.todo.getD (s.fetchLines m), s.fetchHeld c l = true) →
       Does (.tpflComplete c) s fun t => (t.coreAt c).tileQ = rest ∧ t.mem = s.mem ∧
         (t.ctxAt c m.x).tpfDone = v.tpfDone + 1 ∧ (t.ctxAt c m.x).r = v.r ∧ (t.coreAt c).df = k.df) ∧
     (m.op = .pf → (∀ l ∈ m.todo.getD (s.fetchLines m), s.fetchHeld c l = true) →
       Does (.tileFillLand c) s fun t => (t.coreAt c).tileQ = rest ∧ t.mem = s.mem ∧
         (t.ctxAt c m.x).tpfDone = v.tpfDone ∧ (t.ctxAt c m.x).r = v.r ∧ (t.coreAt c).df = k.df) ∧
     (∀ src dst len keys, m.op = .imld src dst len → dst < 65536 → Memory.wf k.scratch = true →
       s.keysOf false ((List.range 64).map fun i => tensorByte src.toNat 0 i) = .ok keys →
       s.EngineReads c m keys → ¬ gated keys → Does (.imldLineArrive c) s fun t =>
         let l := t.coreAt c
         (∀ i, i < 64 → cellGet l.scratch (dst + i) = s.byteAt (keys.getD i (0, .uncached)).1) ∧
         (∀ z, z < dst ∨ dst + 64 ≤ z → cellGet l.scratch z = cellGet k.scratch z) ∧
         l.resid[dst / 32768 % 2]'(Nat.mod_lt _ (by decide)) = none ∧ t.mem = s.mem ∧
         (len ≤ 64 → l.tileQ = rest) ∧
         (64 < len → ∃ n, l.tileQ = { m with op := .imld n (dst + 64) (len - 64) } :: rest ∧ n.toNat % 2 ^ 48 = (src.toNat + 64) % 2 ^ 48)) ∧
     (∀ e, m.op = .ld → k.fillReady m = true → s.tileKeys m = .error e → v.opened = true → v.tr.installed = true →
       v.ckpt.active = false → Does (.tileFillLand c) s fun t =>
         let u := t.ctxAt c m.x
         u.r = { v.ckpt with pc := v.tr.tvec.extractLsb' 0 16, mode := true, uien := false, active := true } ∧ u.gate = [] ∧
         u.tr.tval = BitVec.ofNat 64 e.2 ∧ u.tr.tcause.extractLsb' 0 8 = e.1.code ∧ u.tr.tepc = v.ckpt.pc.setWidth 64 ∧ t.mem = s.mem))

/-! ### Matrix instructions and the matrix unit (R207 to R221) -/

/-- R21, R208, R209, R211, R215 to R217, R219, R220: a matrix instruction takes an entry of the queue, its sources being one slab each or an even pair
each and its accumulator an even pair; with all 8 entries held it blocks. MLIM takes 0 to 32 and MBUD its budgets, at once. MRD empties its
register; CLR with SEL 0 or 1 is illegal. MMA.T12 needs the T12 rung.
R66, R100, R112, R116, R210 to R214, R216 to R221: the landing of the command of the matrix queue whose result lands next. MMA.I8 adds the exact dot products to the first MLIM rows of its
INT32 accumulator and saturates, the other rows stay; MMA.BF, MMA.T6, MMA.T8, MMA.T12 and MMA.AD add the block dot product of the
elements as their rung reads them to the FP32 accumulator; MZERO clears the pair; MCVT converts INT32 to FP32 or FP32 to BF16; MFIN.I
reports the sums that differ from the sidecars, within 8 cycles; MRD's
register takes the statistic. A rung of MMA.AD that is within the budgets, or of full width, is final; another one goes on with the
next rung, or is final at the ceiling where T12 is needed and missing.
Completes: mmaI8, mmaBf, mmaT6, mmaT8, mmaT12, mmaAd, mmaAdRungEnd, mzero, mfinI, mfinF, mlimImm, mlimReg, mbud, mrd, mcvt,
matrixResultLand. -/
def Obligations.MatrixCommands : Prop :=
  (∀ (s : State) (d a b : VField) (r r2 : SReg) (ma mb : Bool) (n : BitVec 6) (sel : BitVec 2) (clr : Bool) (qa qb q : Nat),
     let takes (i : Instr) (P : State → Prop) : Prop := (s.myCore.matHeld < 8 → Does i s P) ∧ (8 ≤ s.myCore.matHeld → Blocks i s)
     let queued (i : Instr) (fs : List VField) (op : MatOp) (x y z : Nat) (ds : List Nat) : Prop :=
       takes i fun t => MatQueued s t fs op x y z ds
     (s.NamesPair d q →
       (s.FullV a qa → s.FullV b qb →
         queued (.mmaI8 d a b ma mb) [d, a, b] .i8 q qa qb [q, q + 1] ∧ queued (.mmaT6 d a b ma mb) [d, a, b] .t6 q qa qb [q, q + 1] ∧
         queued (.mmaT8 d a b ma mb) [d, a, b] .t8 q qa qb [q, q + 1] ∧
         (s.me.mx.cont = false → queued (.mmaAd d a b ma mb) [d, a, b] .ad q qa qb [q, q + 1])) ∧
       (s.FullPair a qa → s.FullPair b qb →
         queued (.mmaBf d a b ma mb) [d, a, b] .bf q qa qb [q, q + 1] ∧
         (s.hasT12 = true → queued (.mmaT12 d a b ma mb) [d, a, b] .t12 q qa qb [q, q + 1]) ∧
         (s.me.mx.cont = true → queued (.mmaAd d a b ma mb) [d, a, b] .ad q qa qb [q, q + 1])) ∧
       (s.FullPair a qa → queued (.mcvt d a ma false) [d, a] (.cvt false) q qa 0 [q, q + 1]) ∧
       queued (.mzero d) [d] .zero q 0 0 [q, q + 1] ∧ queued (.mfinI d) [d] .finI q 0 0 [] ∧ queued (.mfinF d) [d] .finF q 0 0 []) ∧
     (s.FullPair a qa → s.NamesV d q → queued (.mcvt d a ma true) [d, a] (.cvt true) q qa 0 [q]) ∧
     ((clr = true → 2 ≤ sel.toNat) → takes (.mrd r sel clr) fun t => OnlyMyCore s t ∧ OtherScalars s t r ∧
       (r ≠ 0 → ¬ t.FullS r) ∧ t.myCore.matQ = s.myCore.matQ ++ [⟨s.cur.ctx, s.me.region, s.me.seq, s.cur.addr, s.now,
         .rd (s.me.r.isShadow r) r sel clr, 0, 0, 0, s.me.mx, none, 0, false, false, 0, 0, false⟩] ∧
       ∃ due, s.now + 2 ≤ due ∧ t.me.pend = s.me.pend ++
         [⟨s.me.seq, due, due, s.me.region, s.cur.pos, s.cur.addr, false, 0, .mrd (s.me.r.isShadow r) r⟩]) ∧
     (n.toNat ≤ 32 → exec (.mlimImm n) s = .next (s.modMe fun v => { v with mx := { v.mx with mlim := n } })) ∧
     (s.FullS r → (s.valS r).toNat ≤ 32 →
       exec (.mlimReg r ma) s = .next (s.modMe fun v => { v with mx := { v.mx with mlim := (s.valS r).setWidth 6 } })) ∧
     (s.FullS r → s.FullS r2 →
       let x := s.valS r
       let y := s.valS r2
       exec (.mbud r r2 ma mb) s = .next (s.modMe fun v => { v with mx := { v.mx with
         sat6 := x.extractLsb' 0 13, und6 := x.extractLsb' 13 13, can6 := x.extractLsb' 26 13
         cexp := x.extractLsb' 40 4, cont := x.getLsbD 48
         sat8 := y.extractLsb' 0 13, und8 := y.extractLsb' 13 13, can8 := y.extractLsb' 26 13 } })) ∧
     (s.CanTrap → (32 < n.toNat → Traps (.mlimImm n) s .illegalOperand) ∧
       (s.FullS r → 32 < (s.valS r).toNat → Traps (.mlimReg r ma) s .illegalOperand) ∧
       (clr = true → sel.toNat < 2 → Traps (.mrd r sel clr) s .illegalOperand) ∧
       (s.hasT12 = false → Traps (.mmaT12 d a b ma mb) s .unimplemented) ∧
       (∀ z, s.me.slab d = z → z % 2 = 1 → z < s.myPart →
         Traps (.mzero d) s .illegalOperand ∧ Traps (.mfinI d) s .illegalOperand ∧ Traps (.mfinF d) s .illegalOperand))) ∧
  (∀ (s : State) (c : CoreId) (m : MatCmd),
     let k := (s.matBegun c).coreAt c
     let lim := m.mx.mlim.toNat
     let word (k : Core) (q i j : Nat) : Nat := cellNat k.df (k.slabAddr m.x q + (i * 32 + j) * 4) 4
     let int (q i j : Nat) : Int := signedOf 32 (word k q i j)
     let byte (q i j : Nat) : Int := signedOf 8 (cellGet k.df (k.slabAddr m.x q + i * 64 + j)).toNat
     let gone (t : State) : Prop := t.mem = s.mem ∧ (t.coreAt c).matQ.map (fun n => (n.x, n.seq, n.op)) =
       (k.matQ.filter fun n => !(n.x == m.x && n.seq == m.seq)).map fun n => (n.x, n.seq, n.op)
     let landed (t : State) : Prop := gone t ∧ (t.coreAt c).mFree = max k.mFree m.fin ∧
       ∀ z, z < k.slabAddr m.x m.d ∨ k.slabAddr m.x (m.d + 2) ≤ z → cellGet (t.coreAt c).df z = cellGet k.df z
     -- the elements of row i of a tapered operand, of w bytes each, as a rung of n bits reads them, and the row's scale
     let taps (w n q i : Nat) : Option (List Dy) := tapRow n (if w = 2 then 12 else 8)
       ((List.range 64).map fun e => cellNat k.df (k.slabAddr m.x q + (i * 64 + e) * w) w / if w = 2 then 16 else 1)
     let scale (w q i : Nat) : Nat := (cellGet k.side (k.sideAddr m.x (q + i / slabRows w) + i % slabRows w)).toNat
     let adds (w n : Nat) (t : State) : Prop := landed t ∧ ∀ i j, i < 32 → j < 32 → word (t.coreAt c) m.d i j = if i < lim then
       (accumulate (word k m.d i j) (blockDotTap (taps w n m.a i) (scale w m.a i) (taps w n m.b j) (scale w m.b j))).bits
       else word k m.d i j
     let sum (f : Nat → Int) : Nat := (((List.range 32).map f).sum % (2 ^ 32 : Nat)).toNat
     let check (q n : Nat) : Nat := cellNat k.side (k.sideAddr m.x q + 4 * n) 4
     (k.matNext = some m → s.dev.finj.getLsbD 0 = false → Memory.wf k.df = true → Memory.wf k.side = true →
       (m.op = .i8 → Does (.matrixResultLand c) s fun t => landed t ∧ ∀ i j, i < 32 → j < 32 →
         signedOf 32 (word (t.coreAt c) m.d i j) = if i < lim then
           max (-(2 ^ 31)) (min (2 ^ 31 - 1) (int m.d i j + ((List.range 64).map fun n => byte m.a i n * byte m.b j n).sum))
         else int m.d i j) ∧
       (m.op = .bf → Does (.matrixResultLand c) s fun t => landed t ∧ ∀ i j, i < 32 → j < 32 →
         let row (q i : Nat) : List Fp := (List.range 64).map fun n => Fp.ofBits 8 (cellNat k.df (k.slabAddr m.x q + (i * 64 + n) * 2) 2)
         word (t.coreAt c) m.d i j = if i < lim then (accumulate (word k m.d i j) (blockDotBf (row m.a i) (row m.b j))).bits
           else word k m.d i j) ∧
       (m.op = .t6 → Does (.matrixResultLand c) s (adds 1 6)) ∧
       (m.op = .t8 → Does (.matrixResultLand c) s (adds 1 8)) ∧
       (m.op = .t12 → Does (.matrixResultLand c) s (adds 2 12)) ∧
       (m.op = .ad → Does (.matrixResultLand c) s fun t =>
         let v := s.ctxAt c m.x
         let u := t.ctxAt c m.x
         adds (if m.mx.cont then 2 else 1) (if m.rung = 0 then 6 else if m.rung = 1 then 8 else 12) t ∧
         u.r.stats.replays = v.r.stats.replays + BitVec.ofNat 32 m.rung ∧ u.r.stats.adops = v.r.stats.adops + 1 ∧
         u.r.stats.widened = (if m.rung = 0 then v.r.stats.widened else v.r.stats.widened + 1) ∧
         u.statusHi = if m.ceiling then v.statusHi ||| 0x100 else v.statusHi) ∧
       (m.op = .zero → Does (.matrixResultLand c) s fun t => landed t ∧ ∀ i j, i < 32 → j < 32 → word (t.coreAt c) m.d i j = 0) ∧
       (m.op = .cvt false → Does (.matrixResultLand c) s fun t => landed t ∧ ∀ i j, i < 32 → j < 32 →
         word (t.coreAt c) m.d i j = (intToFp 24 .rne (int m.a i j)).bits) ∧
       (m.op = .cvt true → Does (.matrixResultLand c) s fun t => landed t ∧ ∀ i j, i < 32 → j < 32 →
         cellNat (t.coreAt c).df (k.slabAddr m.x m.d + (i * 32 + j) * 2) 2 = ((Fp.ofBits 24 (word k m.a i j)).round 8 .rne).bits) ∧
       (m.op = .finF → Does (.matrixResultLand c) s fun t => gone t ∧ (t.coreAt c).df = k.df ∧ (t.coreAt c).reports = k.reports) ∧
       (m.op = .finI → Does (.matrixResultLand c) s fun t => gone t ∧ (t.coreAt c).df = k.df ∧
         let agree := ∀ n, n < 32 → check m.d n = sum (fun i => int m.d i n) ∧ check (m.d + 1) n = sum (fun j => int m.d n j)
         (agree → (t.coreAt c).reports = k.reports) ∧
         (¬ agree → ∃ r, (t.coreAt c).reports = k.reports ++ [r] ∧ r.code = 0x09 ∧ r.x = m.x ∧ r.region = (s.ctxAt c m.x).region ∧
           r.addr = BitVec.ofNat 64 (k.partBase m.x + m.d) ∧ m.fin + m.tail < r.due ∧ r.due ≤ m.fin + m.tail + 8)) ∧
       (∀ sh r sel clr, m.op = .rd sh r sel clr → Does (.matrixResultLand c) s fun t => gone t ∧ (t.coreAt c).df = k.df ∧
         let st := (k.ctxAt m.x).r.stats
         ∀ p ∈ (k.ctxAt m.x).pend, p.seq = m.seq → ∃ p' ∈ (t.ctxAt c m.x).pend, p'.due = k.landTime (m.fin + 1) ∧
           p'.kind = .sreg sh r (if sel = 0 then st.rung6 else if sel = 1 then st.rung8 else if sel = 2 then st.widened ++ st.replays
             else st.adops.setWidth 64))) ∧
     (k.rungNow = some m → ∃ m', Does (.mmaAdRungEnd c) s (fun t =>
         (t.coreAt c).matQ = k.matQ.map (fun n => if n.x = m.x ∧ n.seq = m.seq then m' else n) ∧ t.mem = s.mem ∧
         (t.coreAt c).df = k.df ∧ (t.ctxAt c m.x) = (s.ctxAt c m.x)) ∧
       (let n := m.monitors k;
         let above (b : BitVec 13) (v : Nat) : Prop := b ≠ 0x1FFF ∧ b.toNat < v;
         let wide := if m.mx.cont then 2 else 1;
         let beyond := if m.rung = 0 then above m.mx.sat6 n.1 ∨ above m.mx.und6 n.2.1 ∨ above m.mx.can6 n.2.2
           else above m.mx.sat8 n.1 ∨ above m.mx.und8 n.2.1 ∨ above m.mx.can8 n.2.2;
         (lim = 0 ∨ m.rung = wide ∨ ¬ beyond → m'.decided = true ∧ m'.rung = m.rung ∧ m'.ceiling = m.ceiling) ∧
         (lim ≠ 0 → m.rung ≠ wide → beyond → m.rung = 1 ∧ s.hasT12 = false → m'.decided = true ∧ m'.rung = 1 ∧ m'.ceiling = true) ∧
         (lim ≠ 0 → m.rung ≠ wide → beyond → ¬ (m.rung = 1 ∧ s.hasT12 = false) → m.rung < wide →
           m'.decided = false ∧ m'.rung = m.rung + 1))))

/-- R65, R66, R68, R120, R142: the first outstanding result of a context lands once its cycle is over. A scalar result fills its register, unless a later one for it is outstanding, and
raises its flags; issued before the open region, it fills the checkpoint's register too. A slab result fills its slabs. A load reads each byte from the region's
earlier stores, else from memory, and extends it. No byte of memory changes.
Completes: resultLand. -/
def Obligations.ResultsLand : Prop :=
  ∀ (s : State) (c : CoreId) (x : CtxId) (p : Pend) (rest : List Pend), (s.ctxAt c x).pend = p :: rest →
    (∀ q ∈ rest, p.seq < q.seq) → p.early < (s.coreAt c).cycle →
    let v := s.ctxAt c x
    let k := s.coreAt c
    let flags (r : Regs) : Word := r.fflags ||| (p.flags.setWidth 64 <<< (5 * p.pos.toNat))
    (∀ sh n w, p.kind = .sreg sh n w → (sh = true → 56 ≤ n.toNat) → Does (.resultLand c x) s fun t =>
      let u := t.ctxAt c x
      u.pend = rest ∧ u.r.fflags = flags v.r ∧ (sh = true ∨ n ≠ 0 → u.r.getAt sh n = w) ∧
      (¬ { v with pend := rest }.sregPending sh n → u.r.emptyAt sh n = false) ∧
      (∀ j, j ≠ n → u.r.getAt false j = v.r.getAt false j) ∧ u.r.p = v.r.p ∧ u.r.pc = v.r.pc ∧
      (p.region = v.region → v.opened = true → u.ckpt = v.ckpt) ∧
      (p.region ≠ v.region → (sh = true ∨ n ≠ 0) → u.ckpt.getAt sh n = w) ∧ t.mem = s.mem) ∧
    (∀ ds data side, p.kind = .slab ds data side → (∀ q ∈ ds, k.writerBefore x q p.seq = false ∧ k.readerBefore x q p.seq = false) →
      Memory.wf k.df = true → (data.map (·.1)).Nodup → Does (.resultLand c x) s fun t =>
        (t.ctxAt c x).pend = rest ∧ (t.ctxAt c x).r.fflags = flags v.r ∧ t.mem = s.mem ∧
        (∀ e ∈ data, cellGet (t.coreAt c).df e.1 = e.2) ∧
        (∀ z, z ∉ data.map (·.1) → cellGet (t.coreAt c).df z = cellGet k.df z) ∧
        (∀ q ∈ ds, (∀ p' ∈ rest, q ∉ p'.writes) → k.tileQ = [] → k.matQ = [] → (t.ctxAt c x).slabEmpty.contains q = false)) ∧
    (∀ sh n keys sx seq, p.kind = .load sh n keys sx seq → s.storeBefore c x seq keys = false → s.Held c .scalar keys → Does (.resultLand c x) s fun t =>
      let bs := keys.map fun q => (gateRead v.gate q.1 seq).getD (s.byteAt q.1)
      let w : Word := if sx then BitVec.ofInt 64 (signedOf (8 * keys.length) (leVal bs)) else BitVec.ofNat 64 (leVal bs)
      (t.ctxAt c x).pend = rest ∧ (sh = true ∨ n ≠ 0 → (t.ctxAt c x).r.getAt sh n = w) ∧ t.mem = s.mem ∧
      (t.ctxAt c x).gate = v.gate)

/-! ### Commands of the host (R337 to R348, R30, R45, R266 to R268, R313, R314, R330, R415, R420, R423) -/

/-- R339: posting a completion writes its 16 bytes behind the submission ring, where these lines are not poisoned: TAG, STATUS and
PHASE, then RESULT; no other byte of memory changes. The tail moves on and PHASE turns over after the last entry of a pass; a
ring that is being disabled is no longer BUSY; the other fields of the ring and the other rings stay; the vector of the ring
is raised. Where no RESULT is stated it is a free value (the model's choice, log 9).
R338, R339, R340: a command is not taken before CMD rises, nor from a ring that is disabled, empty or has an entry in
progress, nor while the turn is another ring's; an entry whose zero fields are not zero completes with STATUS 1 and no effect;
an entry that is taken moves the ring's head on, makes the next ring the first to be served, and changes nothing else. -/
def Obligations.CommandProtocol : Prop :=
  (∀ (s : State) (cmd : Cmd) (status : Nat) (w : Word), status < 256 → Memory.wf s.mem = true →
     let r := s.ringAt cmd.ring
     let a := r.base.toNat + 64 * 2 ^ r.size.toNat + 16 * r.cqTail
     let t := s.complete cmd status (some w)
     let last := r.cqTail + 1 = 2 ^ r.size.toNat
     (lineOf a ∉ s.coh.poison → lineOf (a + 15) ∉ s.coh.poison →
       cellNat t.mem a 8 = cmd.tag.toNat + 2 ^ 16 * status + (if r.phase then 2 ^ 24 else 0) ∧
       cellNat t.mem (a + 8) 8 = w.toNat) ∧
     (∀ z, z < a ∨ a + 16 ≤ z → t.byteAt z = s.byteAt z) ∧
     t.ringAt cmd.ring =
       { r with cqTail := if last then 0 else r.cqTail + 1, phase := if last then !r.phase else r.phase, busy := r.enable } ∧
     (∀ n, n ≠ cmd.ring → t.ringAt n = s.ringAt n) ∧ cmd.ring.toNat ∈ t.dev.msix ∧
     s.complete cmd status none = ({ s with free := s.free + 1 }).complete cmd status (some (Config.freeWord s.free))) ∧
  (∀ (s : State) (cmd : Cmd) (op : Nat) (k : State → CmdOut),
     let r := s.ringAt cmd.ring
     let w := cellNat s.mem (r.base.toNat + 64 * r.head) 8
     (s.dev.funcReady.getLsbD 31 = false ∨ r.enable = false ∨ r.head = r.tail ∨ s.ringStarted cmd.ring = true ∨
         s.ringTurn cmd.ring = false → s.runCmd cmd op k = s) ∧
     (s.canTake cmd op = true → bits w 15 8 ≠ 0 ∨ bits w 63 32 ≠ 0 →
       s.runCmd cmd op k = (s.takeEntry cmd).complete cmd 1 none) ∧
     ((s.takeEntry cmd).ringAt cmd.ring = { r with head := (r.head + 1) % 2 ^ r.size.toNat } ∧
       (∀ n, n ≠ cmd.ring → (s.takeEntry cmd).ringAt n = s.ringAt n) ∧
       (s.takeEntry cmd).dev.nextRing = cmd.ring + 1 ∧ ({ s.takeEntry cmd with dev := s.dev } = s) ∧
       { (s.takeEntry cmd).dev with rings := s.dev.rings, nextRing := s.dev.nextRing } = s.dev))

/-- R341, R344 to R348, R323, R30: IDENTIFY, HEALTH, ATTEST, FW_PATCH, FUTURE_TABLE, LINK_CONFIG and TIME_CONFIG: their RESULT,
their effect and their refusals. The layout of the reports is the model's choice (log 19), and so are what a patch says of itself,
which is an input beside its bytes (log 16), and that LINK_CONFIG refuses a route over a port that is not up (log 42).
Completes: identify, health, futureTable, linkConfig, timeConfig, attest, fwPatch. -/
def Obligations.CommandsOnDevice : Prop :=
  ∀ (s : State) (cmd : Cmd) (buf : BitVec 48) (nonce : BitVec 256) (pp : PatchParams) (n : Word32)
    (dev : BitVec 4) (routes : List Route) (p : TimeParams),
    let v := s.takeEntry cmd
    (s.Offers cmd 0x01 → ∃ w, exec (.identify cmd) s = .next (v.complete cmd 0 (some w)) ∧
      w.extractLsb' 0 8 = (match s.variant with | .hx940 => 0x40 | .hx930 => 0x30 | .hx920 => 0x20) ∧
      w.extractLsb' 8 8 = 1 ∧ w.extractLsb' 16 16 = Config.firmwareVersion ∧ w.extractLsb' 32 16 = s.dev.fused ∧
      w.extractLsb' 48 16 = 0) ∧
    (s.Offers cmd 0x02 → exec (.health cmd buf) s =
      .next ((v.outsideWrite buf.toNat v.healthReport).complete cmd 0 none)) ∧
    (s.Offers cmd 0x48 → Memory.wf s.mem = true → s.coh.poison = [] → Performs (.attest cmd nonce buf) cmd s (some (buf.setWidth 64)) fun u =>
      cellNat u.mem buf.toNat 32 = nonce.toNat ∧ cellNat u.mem (buf.toNat + 32) 8 = s.dev.fused.toNat) ∧
    (s.Offers cmd 0x49 →
      let patch := Instr.fwPatch cmd buf pp
      let signed := s.signed pp.slot.toNat (cellBytes s.mem buf.toNat pp.len.toNat) pp.sigAt = true
      (¬ signed → Refuses patch cmd s 3) ∧
      (signed → pp.version.toNat < s.dev.fused.toNat → Refuses patch cmd s 5) ∧
      (signed → s.dev.fused.toNat ≤ pp.version.toNat → Performs patch cmd s none fun u =>
        { u with dev := s.dev } = s ∧ u.dev.fused = pp.version ∧
        u.dev.patches = s.dev.patches ++ [sha3 (cellBytes s.mem buf.toNat pp.len.toNat)] ∧
        u.dev.addedKeys = pp.adds ++ s.dev.addedKeys ∧
        ∀ i : Fin 8, u.dev.keys[i.val] =
          if pp.revokes.any (fun k => k.toNat == i.val) then .revoked
          else if 4 ≤ i.val ∧ (pp.adds.any fun k => k.1.toNat == i.val) = true then .usable else s.dev.keys[i.val])) ∧
    (s.Offers cmd 0x30 →
      (s.dev.launched = true → Refuses (.futureTable cmd n) cmd s 5) ∧
      (s.dev.launched = false → (¬ ∃ i, i ≤ 22 ∧ n.toNat = 2 ^ i) → Refuses (.futureTable cmd n) cmd s 1) ∧
      (s.dev.launched = false → (∃ i, i ≤ 22 ∧ n.toNat = 2 ^ i) → exec (.futureTable cmd n) s = .next
        (({ v with fut := { v.fut with size := some n.toNat } } : State).complete cmd 0 none))) ∧
    (s.Offers cmd 0x40 →
      let fits := (routes.map (·.1)).Nodup ∧ ∀ r ∈ routes, 1 ≤ r.2.2.toNat ∧ r.2.2.toNat ≤ 4 ∧ s.linkFitted r.2.1.toNat = true
      let live := ∀ r ∈ routes, (s.dev.links[r.2.1.toNat]'r.2.1.isLt).up = true
      (¬ fits → Refuses (.linkConfig cmd dev routes) cmd s 1) ∧
      (fits → ¬ live → Refuses (.linkConfig cmd dev routes) cmd s 5) ∧
      (fits → live → Performs (.linkConfig cmd dev routes) cmd s none fun u =>
        u.dev.devNo = dev ∧ u.dev.routes = routes ∧ u.dev.unacked = [] ∧
        u.dev.seqOut = Vector.replicate 16 0 ∧ u.dev.seqIn = Vector.replicate 16 0 ∧
        (∀ q : BitVec 2, u.dev.links[q.toNat]'q.isLt =
            { s.dev.links[q.toNat]'q.isLt with configured := routes.any fun r => r.2.1 == q } ∧
          u.dev.funcReady.getLsbD (26 + q.toNat) =
            ((s.dev.links[q.toNat]'q.isLt).up && routes.any fun r => r.2.1 == q)) ∧
        { u with dev := s.dev } = s)) ∧
    (s.Offers cmd 0x41 →
      let short := 17 * 1000 * p.windowUs < 2 * (s.dev.maxHops * 7000) + 17 * 200
      (p.windowUs < 2 ∨ 256 < p.windowUs → Refuses (.timeConfig cmd p) cmd s 1) ∧
      (2 ≤ p.windowUs → p.windowUs ≤ 256 → short → Refuses (.timeConfig cmd p) cmd s 5) ∧
      (2 ≤ p.windowUs → p.windowUs ≤ 256 → ¬ short → Performs (.timeConfig cmd p) cmd s none fun u =>
        u.dev.tb.master = p.master ∧ u.dev.tb.windowUs = p.windowUs ∧ u.dev.tb.backup = p.backup ∧
        u.dev.tb.goodSince = (if p.master then some u.timeNs else none) ∧
        (p.setNs = none → u.timeNs = s.timeNs ∧ u.dev.tb.slewTo = s.dev.tb.slewTo) ∧
        (∀ ns, p.setNs = some ns → s.timeNs ≤ ns → u.timeNs = ns ∧ u.dev.tb.slewTo = none) ∧
        (∀ ns, p.setNs = some ns → ns < s.timeNs → u.timeNs = s.timeNs ∧ ∃ lead, u.dev.tb.slewTo = some lead ∧ 0 < lead) ∧
        { u with dev := s.dev } = s))

/-- R342, R343, R341: IMAGE_LOAD and IMAGE_UNLOAD; R192, R254, R260, R263, R447: TENSOR_MAP, TENSOR_UNMAP and LEAF_SET: the image or mapping
made or removed, the copies removed, the wait for accesses under the old entries, and the refusals. A signature is that of ML-DSA-87 under the key of its slot, over the
SHA3-512 digest of the bytes before it; the check itself and the fused keys are constants that nothing evaluates, so the event
carries its outcome, and no other outcome occurs (log 16). That the frames of Wyane's tables are refused is log 17; an id that is not mapped is an absent target by the model's choice (log 27).
Completes: imageLoad, imageUnload, tensorMap, tensorUnmap, leafSet. -/
def Obligations.CommandsOnImagesAndTensors : Prop :=
  ∀ (s : State) (cmd : Cmd) (addr : BitVec 48) (len : BitVec 32) (dies : BitVec 2) (sigOk : Bool) (id : BitVec 16)
    (p : TensorParams) (first count : BitVec 32) (w ut : Bool),
    let v := s.takeEntry cmd
    let bs := cellBytes s.mem addr.toNat len.toNat
    let ts := (tlistOf bs).map declOf
    let data := (bs.drop (imgField bs 0x18 4)).take (imgField bs 0x1C 4)
    let signed := s.imageSigned bs = true
    let load := Instr.imageLoad cmd addr len dies sigOk
    let ready := (dies.getLsbD 0 = true → s.dieReady false = true) ∧ (dies.getLsbD 1 = true → s.dieReady true = true)
    let rules := profilesOk bs = true ∧ ∀ t ∈ ts, s.declRefused t = false
    (∀ slot at', s.signed slot bs at' = true ↔ s.dev.keys[slot]? = some .usable ∧ ∃ key,
      (if slot < 4 then key = Config.fusedKey slot else ∃ b, s.dev.addedKeys.find? (fun k => k.1.toNat == slot) = some (b, key)) ∧
      Config.verify key (sha3 (bs.take at')) (BitVec.ofNat 37016 (imgField bs at' 4627)) = true) ∧
    (s.imageSigned bs = s.signed (imgField bs 0x38 1) bs (imgField bs 0x30 4)) ∧
    (sigOk ≠ s.imageSigned bs → exec load s = .next s) ∧
    (s.Offers cmd 0x10 → sigOk = s.imageSigned bs →
      (dies = 0 ∨ imageWf bs len.toNat = false → Refuses load cmd s 1) ∧
      (dies ≠ 0 → imageWf bs len.toNat = true →
        (¬ ready → Refuses load cmd s 4) ∧
        (ready → ¬ signed → Refuses load cmd s 3) ∧
        (ready → signed → ¬ rules → Refuses load cmd s 5) ∧
        (ready → signed → rules → s.freeImage = none ∨ v.placeData ts data = none → Refuses load cmd s 2) ∧
        (∀ k tid (u : State), ready → signed → rules → s.freeImage = some k → v.placeData ts data = some (tid, u) →
          (∀ m ∈ s.images, m.id ≠ k) ∧ 1 ≤ k ∧ (imgField bs 0x1C 4 = 0 → tid = none ∧ u = v) ∧
          exec load s = .next (({ u with images := u.images ++ [(⟨k, dies, bitAt (imgField bs 6 2) 0,
            (bs.drop (imgField bs 0x10 4)).take (imgField bs 0x14 4), tid, ts, imgField bs 0x2C 4,
            sha3 (bs.take (imgField bs 0x30 4))⟩ : Image)] } : State).complete
            cmd 0 (some (BitVec.ofNat 64 (k + 2 ^ 16 * (tid.getD 0).toNat))))))) ∧
    (s.Offers cmd 0x11 →
      ((∀ m ∈ s.images, m.id ≠ id.toNat) → Refuses (.imageUnload cmd id) cmd s 4) ∧
      (∀ m, (s.images.find? fun m => m.id == id.toNat) = some m →
        ((∃ t ∈ s.tasks, t.tr.imgId = id.toNat) → Refuses (.imageUnload cmd id) cmd s 5) ∧
        ((∀ t ∈ s.tasks, t.tr.imgId ≠ id.toNat) → Memory.wf s.mem = true →
          Drains (.imageUnload cmd id) cmd s ((m.dataTid.map (·.toNat)).getD 0) ((m.dataTid.map fun t => s.leavesAll t.toNat).getD []) fun u =>
            u.images = s.images.filter (fun n => n.id != id.toNat) ∧ u.tasks = s.tasks ∧
            (∀ a, (∀ t, m.dataTid = some t → ¬ InDesc t.toNat a) → u.byteAt a = s.byteAt a) ∧
            (∀ t, m.dataTid = some t → u.descOf t.toNat = 0) ∧
            ∀ c h, (u.coreAt c).resid[halfIx h] ≠ some id.toNat ∧ { u.coreAt c with
              resid := (s.coreAt c).resid, teCache := (s.coreAt c).teCache, teFetch := (s.coreAt c).teFetch
              tlb := (s.coreAt c).tlb, l1d := (s.coreAt c).l1d } = s.coreAt c))) ∧
    (s.Offers cmd 0x18 →
      (paramsBad p s.dev.devNo = true → Refuses (.tensorMap cmd p) cmd s 1) ∧
      (paramsBad p s.dev.devNo = false → s.mapRefused p = true → Refuses (.tensorMap cmd p) cmd s 5) ∧
      (paramsBad p s.dev.devNo = false → s.mapRefused p = false →
        (v.mapTensor p = none → Refuses (.tensorMap cmd p) cmd s 2) ∧
        (∀ u, v.mapTensor p = some u → Memory.wf s.mem = true → s.dev.tablesTop ≤ descAddr 0 →
          exec (.tensorMap cmd p) s = .next (u.complete cmd 0 none) ∧
          let d := u.descOf p.tid.toNat
          d.valid = true ∧ d.tid = p.tid.toNat ∧ d.fmt = p.fmt.toNat ∧ d.geom = p.geom.toNat ∧ d.plane = p.plane.toNat ∧
          d.rank = p.rank.toNat ∧ d.device = p.device.toNat ∧
          (∀ j, j ≠ p.tid.toNat → u.descOf j = s.descOf j) ∧
          OnlyTables s u fun a => InDesc p.tid.toNat a ∨ (p.device = s.dev.devNo ∧ u.dev.tablesTop ≤ a ∧ a < s.dev.tablesTop)))) ∧
    (s.Offers cmd 0x19 →
      ((s.descOf id.toNat).valid = false → Refuses (.tensorUnmap cmd id) cmd s 4) ∧
      ((s.descOf id.toNat).valid = true → Memory.wf s.mem = true →
        Drains (.tensorUnmap cmd id) cmd s id.toNat (s.leavesAll id.toNat) fun u =>
          u.descOf id.toNat = 0 ∧ (∀ j, j ≠ id.toNat → u.descOf j = s.descOf j) ∧ OnlyTables s u (InDesc id.toNat) ∧
          ∀ k, k ∈ u.coh.ut ↔ k ∈ s.coh.ut ∧ ∀ l ∈ s.leavesAll id.toNat, l.holds k.line = false)) ∧
    (s.Offers cmd 0x1A →
      let d := s.descOf id.toNat
      let ls := s.leafRange d first.toNat count.toNat
      let here := d.valid = true ∧ d.device = s.dev.devNo.toNat
      let inside := first.toNat + count.toNat ≤ s.leavesOf d
      let legal := ∀ e ∈ ls, s.leafOk e.2.large { e.2 with w := w, ut := ut } = true
      (¬ here → Refuses (.leafSet cmd id first count w ut) cmd s 4) ∧
      (here → ¬ inside → Refuses (.leafSet cmd id first count w ut) cmd s 1) ∧
      (here → inside → ¬ legal → Refuses (.leafSet cmd id first count w ut) cmd s 5) ∧
      (here → inside → legal → Memory.wf s.mem = true →
        Drains (.leafSet cmd id first count w ut) cmd s id.toNat (ls.map (·.2)) fun u =>
          u.mem = ls.foldl (fun m e => cellWrite m e.1 (leBytes 8 ({ e.2 with w := w, ut := ut } : Leaf).toNat)) s.mem ∧
          (∀ k, k ∈ u.coh.ut ↔ k ∈ s.coh.ut ∧ ∀ e ∈ ls, e.2.holds k.line = false) ∧
          OnlyTables s u fun a => ∃ e ∈ ls, e.1 ≤ a ∧ a < e.1 + 8))

/-- R313, R314, R30, R420, R423, R266 to R268, R341: QUEUE_CREATE, QUEUE_DESTROY, LAUNCH, SCAN_POLICY, FAILOVER, WAY_LOCK and
ROUTE_RESERVE: their effect and their refusals. WAY_LOCK waits while a core of the die runs (log 43). Whether routes of more than 12
slots together give a link too many is a free value (log 30). A launch on a full queue answers code 1 before its record is looked
at (the model's choice, log 60).
Completes: queueCreate, queueDestroy, launch, wayLock, routeReserve, scanPolicy, failoverForbid, failoverAllow,
failoverForce. -/
def Obligations.CommandsOnQueuesAndDies : Prop :=
  ∀ (s : State) (cmd : Cmd) (die : Bool) (q : Byte) (attrs : QueueAttrs) (addr : BitVec 48) (p : ScanPolicy) (slices : Word32)
    (ways : BitVec 16) (cls : BitVec 4) (c : CoreId) (slots : BitVec 5) (rc : RClass),
    let v := s.takeEntry cmd
    let n : BitVec 6 := q.extractLsb' 0 6
    (s.Offers cmd 0x20 →
      let legal := q.toNat ≤ 63 ∧ 1 ≤ attrs.cap.toNat ∧ attrs.cap.toNat ≤ 4096
      (¬ legal → Refuses (.queueCreate cmd die q attrs) cmd s 1) ∧
      (legal → s.dieReady die = false → Refuses (.queueCreate cmd die q attrs) cmd s 4) ∧
      (legal → s.dieReady die = true → (s.queueAt die n).active = true → Refuses (.queueCreate cmd die q attrs) cmd s 5) ∧
      (legal → s.dieReady die = true → (s.queueAt die n).active = false →
        Performs (.queueCreate cmd die q attrs) cmd s none fun u =>
          let w := u.queueAt die n
          w.active = true ∧ w.timed = attrs.timed ∧ w.prio = attrs.prio ∧ w.cap = attrs.cap ∧ w.base = TaskRec.reset ∧
          (attrs.timed = false → w.cyc.bal = attrs.cyc.depth.toNat ∧ w.byt.bal = attrs.byt.depth.toNat ∧
            w.en.bal = attrs.en.depth.toNat ∧ w.cyc.rate = attrs.cyc.rate ∧ w.byt.rate = attrs.byt.rate ∧
            w.en.rate = attrs.en.rate) ∧
          (∀ e m, e ≠ die ∨ m ≠ n → u.queueAt e m = s.queueAt e m) ∧ { u with dies := s.dies } = v)) ∧
    (s.Offers cmd 0x21 →
      let here := s.dieFitted die = true ∧ (s.queueAt die n).active = true
      (63 < q.toNat → Refuses (.queueDestroy cmd die q) cmd s 1) ∧
      (q.toNat ≤ 63 → ¬ here → Refuses (.queueDestroy cmd die q) cmd s 4) ∧
      (q.toNat ≤ 63 → here → Performs (.queueDestroy cmd die q) cmd s none fun u =>
        (u.queueAt die n).active = false ∧ u.mem = s.mem ∧
        ∀ t ∈ s.tasks, t.qdie = die → t.queue = n → t.st = .new ∨ t.st = .waiting ∨ t.st = .ready → t.timedSeg = false →
          t.scan = none → u.taskAt t.id = none ∧ (⟨t.id, none⟩ : Ended) ∈ u.ended)) ∧
    (s.Offers cmd 0x22 →
      let bs := cellBytes s.mem addr.toNat (recordLen (cellNat s.mem addr.toNat 2))
      (63 < q.toNat → Refuses (.launch cmd die q addr) cmd s 1) ∧
      (q.toNat ≤ 63 →
        let f := v.firstLaunch
        let code (k : Nat) := exec (.launch cmd die q addr) s = .next (f.complete cmd 0 (some (BitVec.ofNat 64 k)))
        f.dev.launched = true ∧ f.fut.size = some (s.fut.size.getD 65536) ∧
        (s.queueUp die n = false → code 3) ∧
        (s.queueUp die n = true →
          let full := (s.queueAt die n).cap.toNat ≤ s.queueCount die n ∨ 16384 ≤ s.tableCount die
          let record := expandRecord (s.queueAt die n).base bs
          (full → code 1) ∧ (¬ full → s.recordOk record die = false → code 2) ∧
          (¬ full → s.recordOk record die = true →
            exec (.launch cmd die q addr) s = .next ((f.append die n (some bs)).2.complete cmd 0 (some 0)) ∧
            ((f.append die n (some bs)).2.queueAt die n).base = record)))) ∧
    (s.Offers cmd 0x39 →
      (s.dieFitted die = false → Refuses (.scanPolicy cmd die p) cmd s 4) ∧
      (s.dieFitted die = true → p.maxAbort = 0 → Refuses (.scanPolicy cmd die p) cmd s 1) ∧
      (s.dieFitted die = true → p.maxAbort ≠ 0 →
        exec (.scanPolicy cmd die p) s = .next ((v.modDie die fun d => { d with policy := p }).complete cmd 0 none))) ∧
    (s.Offers cmd 0x3A →
      (s.hasFailover = false → Refuses (.failoverForbid cmd die) cmd s 4 ∧ Refuses (.failoverAllow cmd die) cmd s 4 ∧
        Refuses (.failoverForce cmd die) cmd s 4) ∧
      (s.hasFailover = true →
        exec (.failoverForbid cmd die) s = .next ((v.modDie die fun d => { d with failAllow := false }).complete cmd 0 none) ∧
        exec (.failoverAllow cmd die) s = .next ((v.modDie die fun d => { d with failAllow := true }).complete cmd 0 none) ∧
        (s.dieReady die = true → s.dieReady (!die) = true → Performs (.failoverForce cmd die) cmd s none fun u =>
          (u.dieAt die).failed = true ∧ u.dieReady die = false ∧ u.dieReady (!die) = true ∧
          ((u.dieAt die).stopped = true ↔ (s.dieAt die).stopped = true ∨ (s.dieAt die).failAllow = false) ∧
          ∀ k, dieOf k = die → (u.coreAt k).ready = false ∧ ∀ x, (u.ctxAt k x).occ = .free))) ∧
    (s.Offers cmd 0x2A →
      (s.dieReady die = false → Refuses (.wayLock cmd die slices ways cls) cmd s 4) ∧
      (s.dieReady die = true → 4096 ≤ ways.toNat → Refuses (.wayLock cmd die slices ways cls) cmd s 1) ∧
      (s.dieReady die = true → ways.toNat < 4096 → s.dieRuns die = false →
        Performs (.wayLock cmd die slices ways cls) cmd s none fun u =>
          (∀ i j, (u.dieAt die).wayClass i j = if i < 32 ∧ slices.getLsbD i = true ∧ j < 12 ∧ ways.getLsbD j = true then cls
            else (s.dieAt die).wayClass i j) ∧
          (∀ p ∈ (u.dieAt die).l2, p ∈ (s.dieAt die).l2 ∧
            (u.dieAt die).wayClass (sliceNo p.1) p.2 = (s.dieAt die).wayClass (sliceNo p.1) p.2) ∧
          { u.dieAt die with ways := (s.dieAt die).ways, l2 := (s.dieAt die).l2 } = s.dieAt die ∧
          u.dieAt (!die) = s.dieAt (!die) ∧ { u with dies := s.dies, coh := s.coh } = v) ∧
      (s.dieReady die = true → ways.toNat < 4096 → s.dieRuns die = true → ∃ ws, (∀ i j, (i, j) ∈ ws ↔
        i < 32 ∧ slices.getLsbD i = true ∧ j < 12 ∧ ways.getLsbD j = true) ∧
        Waits (.wayLock cmd die slices ways cls) cmd s v (.wayLock die ws cls))) ∧
    (s.Offers cmd 0x2B →
      (s.targetCore (dieOf c) (pcoreOf c) = none → Refuses (.routeReserve cmd c slots rc) cmd s 4) ∧
      (∀ k, s.targetCore (dieOf c) (pcoreOf c) = some k → (s.coreAt k).ready = true ∧
        let d := dieOf k
        let routes := ((s.dieAt d).routes.filter fun r => r.1 != k) ++ (if slots = 0 then [] else [(k, slots)])
        let matched := slots = 0 ↔ rc = .opn
        (¬ matched → Refuses (.routeReserve cmd c slots rc) cmd s 1) ∧
        (matched → 12 < slots.toNat ∨ (rc = .timed ∧ 16 ≤ s.timedRoutes d k) →
          Refuses (.routeReserve cmd c slots rc) cmd s 5) ∧
        (matched → (routes.map fun r => r.2.toNat).sum ≤ 12 → (rc = .timed → s.timedRoutes d k < 16) →
          Performs (.routeReserve cmd c slots rc) cmd s none fun u => (u.dieAt d).routes = routes ∧
            (u.coreAt k).rclass = rc ∧ { u.coreAt k with rclass := (s.coreAt k).rclass } = s.coreAt k ∧
            (∀ k', k' ≠ k → u.coreAt k' = s.coreAt k') ∧ { u with dies := s.dies, cores := s.cores } = v)))

/-- R45, R330, R415, R241, R388: CORE_CLASS waits until the contexts of its cores are FREE and sets their class, and a die with a timed
core has a supply of 550 mV or above (R351); RUNNING_ORDER starts a table that it accepts; CORE_RETIRE asks every context to
leave and holds its ring; DEBUG resumes a halted context or ends its task FAILED. A command for an absent core, or one that is
not ready, completes with STATUS 4. Which pages RUNNING_ORDER locks in the tile TLB is an input (log 43); a CORE_RETIRE whose entry names
another core than its step is no event (log 19).
Completes: coreClass, runningOrder, coreRetire, debugResume, debugEndTask. -/
def Obligations.CommandsOnCores : Prop :=
  ∀ (s : State) (cmd : Cmd) (die : Bool) (mask : Word) (timed : Bool) (c : CoreId) (x : CtxId) (table : BitVec 48)
    (start : Word) (locks : List Word) (l : BitVec 6),
    let v := s.takeEntry cmd
    (s.Offers cmd 0x28 →
      (s.coresOf die mask = none → Refuses (.coreClass cmd die mask timed) cmd s 4) ∧
      (∀ cs, s.coresOf die mask = some cs →
        (∀ k ∈ cs, (s.coreAt k).ready = true) ∧
        ((∃ k ∈ cs, (s.coreAt k).allFree = false) → Waits (.coreClass cmd die mask timed) cmd s v (.coreClass cs timed)) ∧
        ((∀ k ∈ cs, (s.coreAt k).allFree = true) → Performs (.coreClass cmd die mask timed) cmd s none fun u =>
          (∀ k, (u.coreAt k).timed = if k ∈ cs then timed else (s.coreAt k).timed) ∧
          (∀ k, k ∉ cs → u.coreAt k = s.coreAt k) ∧
          (∀ k, { u.coreAt k with timed := (s.coreAt k).timed, order := (s.coreAt k).order } = s.coreAt k) ∧
          (∀ k ∈ cs, timed = true → 550 ≤ (u.dieAt (dieOf k)).vddMv) ∧
          (∀ d, { u.dieAt d with vddMv := (s.dieAt d).vddMv } = s.dieAt d) ∧
          { u with cores := s.cores, dies := s.dies } = v))) ∧
    (s.Offers cmd 0x29 →
      let order := Instr.runningOrder cmd c table ⟨start, locks⟩
      (s.targetCore (dieOf c) (pcoreOf c) = none → Refuses order cmd s 4) ∧
      (∀ k, s.targetCore (dieOf c) (pcoreOf c) = some k →
        let head := cellNat s.mem table.toNat 8
        let rows := (List.range (head % 65)).map fun i => cellBytes s.mem (table.toNat + 8 + 32 * i) 32
        let imgs := orderImages (rows.map segmentOf)
        let ok := (s.coreAt k).timed = true ∧ s.orderOk (dieOf k) head rows = true
        (¬ ok → Refuses order cmd s 5) ∧
        (ok → v.loadImages k imgs imgs = none → Refuses order cmd s 5) ∧
        (∀ w, ok → v.loadImages k imgs imgs = some w →
          Performs order cmd s none fun u =>
            (u.coreAt k).order =
              some ⟨rows.map segmentOf, start.toNat, 0, (s.coreAt k).cycle, false, false, false⟩ ∧
            (∀ i ∈ imgs, u.residentIn k false i = true ∨ u.residentIn k true i = true) ∧
            (∀ e ∈ (u.coreAt k).tlb, e.locked = true → ∃ a ∈ locks, (TlbEnt.ofAddr a.toNat e.large).same e = true) ∧
            (∀ k', k' ≠ k → u.coreAt k' = s.coreAt k') ∧ { u with cores := s.cores } = v))) ∧
    (s.retireNamed cmd die l = false → exec (.coreRetire cmd die l) s = .next s) ∧
    (s.Offers cmd 0x38 → s.retireNamed cmd die l = true →
      (s.targetCore die l = none → Refuses (.coreRetire cmd die l) cmd s 4) ∧
      (∀ k, s.targetCore die l = some k →
        ((s.coreAt k).timed = true → Refuses (.coreRetire cmd die l) cmd s 5) ∧
        ((s.coreAt k).timed = false → (s.coreAt k).wings = false → ∃ u, Waits (.coreRetire cmd die l) cmd s u (.wings k) ∧
          ((s.coreAt k).retiring ≠ none → u = v) ∧
          ((s.coreAt k).retiring = none → (u.coreAt k).retiring = some ⟨s.timeNs, false, 0⟩ ∧
            ∀ y, u.ctxAt k y = if (s.ctxAt k y).occ = .running then { s.ctxAt k y with preemptReq := true } else s.ctxAt k y) ∧
          u.takesTasks k = false ∧ (∀ k', k' ≠ k → u.coreAt k' = s.coreAt k') ∧ { u with cores := s.cores } = v))) ∧
    (s.Offers cmd 0x50 →
      (s.targetCore (dieOf c) (pcoreOf c) = none →
        Refuses (.debugResume cmd c x) cmd s 4 ∧ Refuses (.debugEndTask cmd c x) cmd s 4) ∧
      (∀ k, s.targetCore (dieOf c) (pcoreOf c) = some k →
        ((s.ctxAt k x).halted = false →
          Refuses (.debugResume cmd c x) cmd s 5 ∧ Refuses (.debugEndTask cmd c x) cmd s 5) ∧
        ((s.ctxAt k x).halted = true →
          Performs (.debugResume cmd c x) cmd s none (fun u => (u.ctxAt k x).halted = false ∧ (u.ctxAt k x).after = .none ∧
            ((s.ctxAt k x).after ≠ .halt → (u.ctxAt k x).r = (s.ctxAt k x).r) ∧ u.mem = s.mem ∧
            (∀ y, y ≠ x → u.ctxAt k y = s.ctxAt k y) ∧ ∀ k', k' ≠ k → u.coreAt k' = s.coreAt k') ∧
          (∀ id t, (s.ctxAt k x).task = some id → s.taskAt id = some t →
            Performs (.debugEndTask cmd c x) cmd s none fun u => (u.ctxAt k x).occ = .free ∧ (u.ctxAt k x).task = none ∧
              u.taskAt id = none ∧ (⟨id, none⟩ : Ended) ∈ u.ended ∧ u.mem = s.mem))))

/-! ### Detector reports and registers (R337, R368 to R373, R376, R428, R446) -/

/-- R368 to R374, R376, R377, R402: a corrected report counts in CE_COUNT and goes no further; an uncorrected report of a core's
arrays rolls back the region attempt that it concerns, from its checkpoint, unless the attempt is over or the region has passed
step 2 of its commit; then it is only logged, or, where a trapped rollback has ended the attempt, counted. A timing-margin report rolls back every such region of the core; a report of
memory poisons the line, as does one of a dirty owner copy; one of a stage-die table that both dies share stops the device, and
one of a die's own structure is a die-level event. No byte of memory changes. A report that is not enabled leaves the state as it
was (the model's choice, log 1).
Completes: detectorReport, timingMarginReport. -/
def Obligations.DetectorReports : Prop :=
  ∀ (s : State) (code unit : Byte) (c : CoreId) (x : CtxId) (attempt : Nat) (shared : Bool) (addr : Word) (synd : BitVec 16),
    let report (corrected : Bool) := Instr.detectorReport code c x ⟨attempt, corrected, shared⟩ unit addr synd
    let ctx := s.ctxAt c x
    let line := addr.toNat / 64
    let core := 1 ≤ code.toNat ∧ code.toNat ≤ 0x0A
    let open_ (y : CtxId) := (s.ctxAt c y).opened = true ∧ (s.ctxAt c y).pastHorizon = false
    let concerned := attempt = ctx.region ∧ open_ x
    let die := if s.hasFailover then dieOf c else false
    (code = 0 ∨ 0x0E < code.toNat → ∀ b, exec (report b) s = .next s) ∧
    (code ∈ ([0x03, 0x04, 0x05, 0x06, 0x0C, 0x0D, 0x0E] : List Byte) → Does (report true) s fun t =>
      t.log.ce = (if s.log.ce = BitVec.allOnes 64 then s.log.ce else s.log.ce + 1) ∧ t.mem = s.mem ∧
      (s.log.celog = false → t.log.cedrop = true ∧ t.log.entries = s.log.entries) ∧ ∀ y, t.ctxAt c y = s.ctxAt c y) ∧
    (code ∈ ([0x01, 0x02, 0x07, 0x08, 0x09, 0x0A, 0x0B] : List Byte) → exec (report true) s = .next s) ∧
    (code = 0x0C → exec (report false) s = .next s) ∧
    (core → concerned → Does (report false) s fun t =>
      (t.ctxAt c x).opened = false ∧ t.mem = s.mem ∧
      t.log.ue = (if s.log.ue = BitVec.allOnes 64 then s.log.ue else s.log.ue + 1) ∧
      (ctx.run < 2 → (t.ctxAt c x).r = ctx.ckpt ∧ (t.ctxAt c x).gate = [] ∧ (t.ctxAt c x).recs = [] ∧
        (t.ctxAt c x).run = ctx.run + 1 ∧ (t.ctxAt c x).task = ctx.task ∧ t.log.esc = s.log.esc) ∧
      (2 ≤ ctx.run → (t.ctxAt c x).occ = .free ∧
        t.log.esc = (if s.log.esc = BitVec.allOnes 64 then s.log.esc else s.log.esc + 1))) ∧
    (core → s.dirtyCopy code c line = true → Does (report false) s fun t => line ∈ t.coh.poison) ∧
    (core → ¬ concerned → ctx.trapOf = some attempt → Does (report false) s fun t => t.mem = s.mem ∧
      t.log.ue = (if s.log.ue = BitVec.allOnes 64 then s.log.ue else s.log.ue + 1) ∧
      (ctx.run < 2 → (t.ctxAt c x).r = ctx.r ∧ (t.ctxAt c x).gate = ctx.gate ∧ (t.ctxAt c x).opened = ctx.opened ∧
        (t.ctxAt c x).run = ctx.run + 1)) ∧
    (core → ¬ concerned → ctx.trapOf ≠ some attempt → Does (report false) s fun t => t.cores = s.cores ∧ t.mem = s.mem ∧
      (s.dirtyCopy code c line = false → t.coh = s.coh ∧ (s.log.entries.length < 48 → ∃ e ∈ t.log.entries,
        e.src = code ∧ e.sev = 1 ∧ e.unit = unit ∧ e.addr = addr ∧ e.synd = synd))) ∧
    (code = 0x0D → Does (report false) s fun t => line ∈ t.coh.poison ∧ t.mem = s.mem ∧
      (concerned → (t.ctxAt c x).opened = false) ∧
      (¬ concerned → ctx.trapOf ≠ some attempt → t.cores = s.cores)) ∧
    (code = 0x0E → s.hasFailover = true → shared = true → Does (report false) s fun t => t.dev.sharedStop = true ∧
      step t = .fault .deviceStopped ∧ t.mem = s.mem ∧ t.cores = s.cores) ∧
    (code = 0x0E → s.hasFailover = false ∨ shared = false → s.dieFitted die = true → s.dieReady die = true →
      Does (report false) s fun t => (t.dieAt die).failed = true ∧ t.dieReady die = false ∧ t.dev.sharedStop = s.dev.sharedStop) ∧
    (code = 0x0B → exec (report false) s = exec (.timingMarginReport c) s) ∧
    (Does (.timingMarginReport c) s fun t => t.mem = s.mem ∧ (∀ y, open_ y → (t.ctxAt c y).opened = false) ∧
      (∀ y, open_ y → (s.ctxAt c y).run < 2 → (t.ctxAt c y).r = (s.ctxAt c y).ckpt ∧ (t.ctxAt c y).gate = [] ∧
        (t.ctxAt c y).run = (s.ctxAt c y).run + 1) ∧
      (∀ y, ¬ open_ y → (t.ctxAt c y).r = (s.ctxAt c y).r ∧ (t.ctxAt c y).opened = (s.ctxAt c y).opened))

/-- R337, R371, R372, R390, R428, R446: the rings are enabled and disabled, a doorbell moves the tail, ELOG_POP removes the entry whose SEQ
it names, and a register write with byte lanes reaches RW and W1C fields only: every RO register and every offset that the
tables do not list is unchanged. That a write of FINJ_CTL arms or disarms the rule at once is the model's choice (log 51).
Completes: elogPop, registerWrite, finjCtlWrite, sqTailDoorbell, ringEnable, ringDisable. -/
def Obligations.RegistersWritten : Prop :=
  ∀ (s : State) (n : BitVec 2) (v : Word) (off : BitVec 24) (be : Byte) (seq : BitVec 16),
    let r := s.ringAt n
    let ring (i : Instr) (r' : Ring) : Prop := Does i s fun t => t.ringAt n = r' ∧ (∀ m, m ≠ n → t.ringAt m = s.ringAt m) ∧
      { t with dev := s.dev } = s ∧ { t.dev with rings := s.dev.rings } = s.dev
    let a := off.toNat / 8 * 8
    let write (t : State) : Prop := exec (.registerWrite off be v) s = .next t
    let log (t : ErrLog) : Prop := write { s with log := t }
    let ones := lanes 0 v be
    ring (.ringEnable n) (if r.busy then r else
      { r with enable := true, busy := true, tail := 0, head := 0, cqHead := 0, cqTail := 0, phase := true }) ∧
    ring (.ringDisable n) (if r.enable then { r with enable := false, busy := s.ringStarted n } else r) ∧
    ring (.sqTailDoorbell n v) (if r.busy && !r.enable then r else { r with tail := v.toNat % 2 ^ r.size.toNat }) ∧
    (∀ e rest, s.log.entries = e :: rest →
      exec (.elogPop seq) s = .next (if e.seq = seq then { s with log := { s.log with entries := rest } } else s)) ∧
    (s.log.entries = [] → exec (.elogPop seq) s = .next s) ∧
    (Does (.finjCtlWrite be v) s fun t =>
      t.dev.finj.getLsbD 1 = (s.dev.finj.getLsbD 1 && !(be.getLsbD 0 && v.getLsbD 1)) ∧
      (∀ k, (k = 0 ∨ k = 2 ∨ (8 ≤ k ∧ k < 15)) →
        t.dev.finj.getLsbD k = if be.getLsbD (k / 8) then v.getLsbD k else s.dev.finj.getLsbD k) ∧
      { t with dev := s.dev } = s ∧ { t.dev with finj := s.dev.finj } = s.dev) ∧
    -- every offset that names no RW or W1C register: RO registers, and those that no table lists
    (a ∉ [0x1000, 0x1008, 0x1010, 0x1040, 0x2200, 0x2208, 0x2218, 0x2600] → ¬ (0x2100 ≤ a ∧ a < 0x2180) →
      ¬ (0x2400 ≤ a ∧ a < 0x2420) → write s) ∧
    (a = 0x1000 → log { s.log with ovf := s.log.ovf && !ones.getLsbD 8, cedrop := s.log.cedrop && !ones.getLsbD 9 }) ∧
    (a = 0x1008 → log { s.log with ctl := lanes s.log.ctl v be &&& 0x13F }) ∧
    (a = 0x1010 → exec (.registerWrite off be v) s = exec (.elogPop (ones.extractLsb' 0 16)) s) ∧
    (a = 0x1040 → log { s.log with coreSel := lanes s.log.coreSel v be &&& 0x7F }) ∧
    (a = 0x2100 + 0x20 * n.toNat → ring (.registerWrite off be v)
      (if r.enable || r.busy then r else { r with base := lanes r.base v be &&& 0xFFFFFFFFFFC0 })) ∧
    (a = 0x2110 + 0x20 * n.toNat → exec (.registerWrite off be v) s = exec (.sqTailDoorbell n ones) s) ∧
    (a = 0x2118 + 0x20 * n.toNat → ring (.registerWrite off be v)
      (if r.busy && !r.enable then r else { r with cqHead := lanes r.cqHead v be })) ∧
    (a = 0x2108 + 0x20 * n.toNat →
      let w := lanes (BitVec.ofNat 64 (r.size.toNat + (if r.enable then 256 else 0) + (if r.busy then 512 else 0))) v be
      (r.enable = true → w.getLsbD 8 = false → exec (.registerWrite off be v) s = exec (.ringDisable n) s) ∧
      (r.enable = true → w.getLsbD 8 = true → write s) ∧
      (r.enable = false → r.busy = true → write s) ∧
      (r.enable = false → r.busy = false → ring (.registerWrite off be v)
        (if w.getLsbD 8 then { r with size := w.extractLsb' 0 4, enable := true, busy := true, tail := 0, head := 0, cqHead := 0,
                                      cqTail := 0, phase := true }
         else { r with size := w.extractLsb' 0 4 }))) ∧
    (a = 0x2200 → write (s.modDev fun d => { d with toLate := d.toLate &&& ~~~(ones.extractLsb' 0 32) })) ∧
    (a = 0x2208 → write (s.modDev fun d => { d with toDrop := d.toDrop &&& ~~~(ones.extractLsb' 0 32) })) ∧
    (a = 0x2218 → Does (.registerWrite off be v) s fun t => (∀ k, k < 16 →
        t.dev.toEnable.getLsbD k = if be.getLsbD (k / 8) then v.getLsbD k else s.dev.toEnable.getLsbD k) ∧
      { t with dev := s.dev } = s ∧ { t.dev with toEnable := s.dev.toEnable } = s.dev) ∧
    (a = 0x2400 + 8 * n.toNat → write (s.bpWrite n be v)) ∧
    (a = 0x2600 → exec (.registerWrite off be v) s = exec (.finjCtlWrite be v) s)

/-! ### Stage managers (R28, R48, R49, R319, R322 to R328) -/

/-- R48, R331: a pre-emption request reaches a running context of a throughput core. R319: a PARKED context whose task is READY goes on.
R49: a core saves a PARKED context. R327: a microsecond adds RATE to each bucket, up to DEPTH. R328: a debit report takes
the core's debits from the buckets, down to -2^39, and the core starts again with none. An event that is not enabled leaves the
state as it was (the model's choice, log 1).
Completes: taskResume, preemptionRequest, hwContextSave, debitReport, bucketRefill. -/
def Obligations.StageManagerEvents : Prop :=
  ∀ (s : State) (c : CoreId) (x : CtxId),
    let ctx := s.ctxAt c x
    let bucket (b b' : Bucket) : Prop := b'.rate = b.rate ∧ b'.depth = b.depth ∧
      b'.bal = min (b.depth.toNat : Int) (b.bal + b.rate.toNat)
    (ctx.occ = .running → (s.coreAt c).timed = false →
      exec (.preemptionRequest c x) s = .next (s.modCtx c x fun v => { v with preemptReq := true })) ∧
    (ctx.occ ≠ .running ∨ (s.coreAt c).timed = true → exec (.preemptionRequest c x) s = .next s) ∧
    (s.canResume c x = true → (ctx.uiReady = true → ctx.uivec.extractLsb' 0 2 = 0) → ∀ id, ctx.task = some id → Does (.taskResume c x) s fun t =>
      (t.ctxAt c x).occ = .running ∧ (t.ctxAt c x).preemptReq = false ∧ (t.ctxAt c x).r.s = ctx.r.s ∧ t.mem = s.mem ∧
      ((∃ k, s.taskAt id = some k) → ∃ k, t.taskAt id = some k ∧ k.st = .running ∧ k.loc = some (c, x)) ∧
      ∀ c', c' ≠ c → t.coreAt c' = s.coreAt c') ∧
    (s.canResume c x = false → exec (.taskResume c x) s = .next s) ∧
    (∀ u, (∀ y, (s.ctxAt c y).occ ≠ .free) →
      (∃ t ∈ s.tasks, s.waitsOn (dieOf c) t = true ∧ s.eligible (dieOf c) t c = true) → s.coreSave c x = (true, u) →
      exec (.hwContextSave c x) s = .next u ∧ (u.ctxAt c x).occ = .free ∧ ctx.occ = .parked ∧
      (∀ id, ctx.task = some id → ∀ k, u.taskAt id = some k →
        k.saved = some ((s.coreAt c).saveBase[x.toNat]'x.isLt, (s.coreAt c).partUnits x) ∧ k.loc = none)) ∧
    (Does (.debitReport c) s fun t => (t.coreAt c).debits = [] ∧ (t.coreAt c).lastDebit = (s.coreAt c).cycle ∧ t.mem = s.mem ∧
      (∀ die q, (∀ d ∈ (s.coreAt c).debits, (d.die, d.queue) ≠ (die, q)) → t.queueAt die q = s.queueAt die q) ∧
      (((s.coreAt c).debits.map fun d => (d.die, d.queue)).Nodup → ∀ d ∈ (s.coreAt c).debits, (s.queueAt d.die d.queue).timed = false →
        (t.queueAt d.die d.queue).cyc.bal = max (-(2 ^ 39)) ((s.queueAt d.die d.queue).cyc.bal - d.cyc) ∧
        (t.queueAt d.die d.queue).byt.bal = max (-(2 ^ 39)) ((s.queueAt d.die d.queue).byt.bal - d.byt) ∧
        (t.queueAt d.die d.queue).en.bal = max (-(2 ^ 39)) ((s.queueAt d.die d.queue).en.bal - d.en))) ∧
    (Does .bucketRefill s fun t => t.mem = s.mem ∧ t.cores = s.cores ∧
      (∀ d q, (s.queueAt d q).active = true → (s.queueAt d q).timed = false →
        bucket (s.queueAt d q).cyc (t.queueAt d q).cyc ∧ bucket (s.queueAt d q).byt (t.queueAt d q).byt ∧
        bucket (s.queueAt d q).en (t.queueAt d q).en) ∧
      (∀ d q, (s.queueAt d q).active = false ∨ (s.queueAt d q).timed = true → t.queueAt d q = s.queueAt d q) ∧
      ∀ k ∈ s.tasks, k.st = .parked → k.why = .bucket → t.taskBroke k = false → ∃ k', t.taskAt k.id = some k' ∧ k'.st = .ready)

/-- R28, R323 to R325: a stage manager that is ready and places tasks puts the first task in its order on a FREE context of the core it
chooses: the context runs with the values of R28 in the half that holds the image, at the task's entry.
Completes: taskPlacement. -/
def Obligations.TaskPlacement : Prop :=
  ∀ (s : State) (d : Bool) (t : Task) (rest : List Task) (c : CoreId) (h : Bool) (x : CtxId) (m : Image),
    s.dieReady d = true → (s.dieAt d).stopPlacing = false → s.headOrder d = t :: rest → s.pickCore d t = some (c, h) →
    s.freeFor c t = some x → t.saved = none → s.imageOn t.tr.imgId d = some m → t.tr.cast = 0 →
    dieOf c = d ∧ s.takesTasks c = true ∧ (s.ctxAt c x).occ = .free ∧
    (∀ l, s.logicalOf c = some l → t.tr.aff = 0 ∨ t.qdie ≠ d ∨ t.tr.aff.getLsbD l = true) ∧
    Does (.taskPlacement d) s fun u =>
      let v := u.ctxAt c x
      v.occ = .running ∧ v.task = some t.id ∧ v.opened = false ∧ v.gate = [] ∧ v.recs = [] ∧
      v.r.pc = BitVec.ofNat 16 (32768 * boolNat h + t.tr.entry) ∧ v.r.mode = m.priv ∧ v.r.fflags = 0 ∧ v.r.loops = [] ∧
      v.r.p = 1 ∧ v.r.sEmpty = 0 ∧ v.slabEmpty = [] ∧ v.tr = TrapRegs.reset ∧
      (∀ i : Fin 8, v.r.s[i.val + 1] = t.tr.args[i.val]) ∧
      v.r.s[9] = (if futIndex t.tr.res = 0 then 0 else t.tr.res.setWidth 64) ∧ v.r.s[10] = 0 ∧
      (∀ i : Fin 64, i.val = 0 ∨ 10 < i.val → v.r.s[i.val] = 0) ∧
      (∃ k, u.taskAt t.id = some k ∧ k.st = .running ∧ k.loc = some (c, x)) ∧ u.residentIn c h t.tr.imgId = true ∧
      u.mem = s.mem ∧ (∀ y, y ≠ x → u.ctxAt c y = s.ctxAt c y) ∧ ∀ c', c' ≠ c → u.coreAt c' = s.coreAt c'

/-! ### Timed cores and timed outputs (R243, R330 to R332) -/

/-- R330 to R332, R243: when a segment's slot begins, its PARKED task goes on if it is READY, a new task enters at IMAGE and ENTRY with the
argument words, or the slot stays idle; a task that has run COST + SLACK takes the timing trap once, a trapped rollback with
the cycles since the start in TVAL; at the end of the slot a task that still runs enters FAILED and the next segment is
current. A confirmed commit is not rolled back (R380): that the trap then waits for its end, and that the end of the slot lets it
stand, is the model's reading (log 23); that a slot whose argument words cannot be read stays idle is the model's choice (log 24).
The timed-output unit drives the pins of its first entry at its time. An event that is not enabled leaves the state as it was
(the model's choice, log 1).
Completes: segmentStart, timingTrap, segmentSlotEnd, timedOutputFire. -/
def Obligations.TimedCores : Prop :=
  ∀ (s : State) (c : CoreId) (o : RunOrder) (g : Segment), (s.coreAt c).order = some o → o.segs[o.cur]? = some g →
    let ctx := s.ctxAt c g.ctx
    let len := g.cost + g.slack + g.hcost
    let cyc := (s.coreAt c).cycle
    let begun : RunOrder := { o with
      started := true, live := false, trapped := false, startNs := 0, slotStart := if o.startNs = 0 then o.slotStart else cyc }
    let u := s.modOrder c fun _ => begun
    (s.segmentDue c = true →
      (s.coreAt c).timed = true ∧ o.started = false ∧ o.startNs ≤ s.timeNs ∧ o.slotStart ≤ cyc ∧
      (ctx.occ = .parked → ∀ t, s.taskOf c g.ctx = some t →
        (t.st ≠ .ready → exec (.segmentStart c) s = .next u) ∧
        (t.st = .ready → ctx.uiReady = false ∨ ctx.infl ≠ none → Does (.segmentStart c) s fun w => (w.ctxAt c g.ctx).occ = .running ∧
          (w.coreAt c).order = some { begun with live := true } ∧ (w.ctxAt c g.ctx).r.s = ctx.r.s ∧
          (w.ctxAt c g.ctx).r.pc = ctx.r.pc ∧ w.mem = s.mem)) ∧
      (ctx.occ = .free → g.fromQueue = true → s.segmentQueued c g.ctx g.queue = none → exec (.segmentStart c) s = .next u) ∧
      (ctx.occ = .free → g.fromQueue = false → u.segmentArgs c g.ctx g.args.toNat = none →
        exec (.segmentStart c) s = .next u) ∧
      (∀ m ks, ctx.occ = .free → s.bothHeld c = false → g.fromQueue = false → s.imageOn g.image.toNat (dieOf c) = some m →
        s.residentIn c false g.image.toNat = true →
        s.keysOf false ((List.range 64).map fun i => tensorByte g.args.toNat 0 i) = .ok ks →
        Does (.segmentStart c) s fun w => (w.ctxAt c g.ctx).occ = .running ∧ (w.ctxAt c g.ctx).task = some s.nextTask ∧
          (w.coreAt c).order = some { begun with live := true } ∧ (w.ctxAt c g.ctx).r.mode = m.priv ∧
          (w.ctxAt c g.ctx).r.pc = g.entry ∧ w.mem = s.mem ∧
          ∀ i : Fin 8, (w.ctxAt c g.ctx).r.s[i.val + 1] =
            BitVec.ofNat 64 (leVal (((u.loadBytes c g.ctx false 0 ks).1.drop (8 * i.val)).take 8)))) ∧
    (o.started = false ∨ o.live = false ∨ o.trapped = true ∨ cyc < o.slotStart + g.cost + g.slack ∨
        ctx.cm.phase = .merge ∨ ctx.cm.phase = .ordered → exec (.timingTrap c) s = .next s) ∧
    (o.started = true → o.live = true → o.trapped = false → o.slotStart + g.cost + g.slack ≤ cyc → ctx.opened = true →
      ctx.cm.phase ≠ .merge → ctx.cm.phase ≠ .ordered →
      ctx.tr.installed = true → ctx.ckpt.active = false → Does (.timingTrap c) s fun t =>
        let v := t.ctxAt c g.ctx
        (t.coreAt c).order = some { o with trapped := true } ∧ v.opened = false ∧ v.gate = [] ∧ v.recs = [] ∧
        v.r = { ctx.ckpt with mode := true, uien := false, active := true, pc := ctx.tr.tvec.extractLsb' 0 16 } ∧
        v.tr.tepc = ctx.ckpt.pc.setWidth 64 ∧ v.tr.tval = BitVec.ofNat 64 (cyc - o.slotStart) ∧
        v.tr.tcause.extractLsb' 0 8 = 0x0E ∧ v.tr.tcause.extractLsb' 14 2 = 2 ∧ t.mem = s.mem) ∧
    (o.started = false ∨ cyc < o.slotStart + len → exec (.segmentSlotEnd c) s = .next s) ∧
    (o.started = true → o.slotStart + len ≤ cyc → Does (.segmentSlotEnd c) s fun t =>
      (t.coreAt c).order = some { o with
        cur := (o.cur + 1) % o.segs.length, slotStart := o.slotStart + len, started := false, live := false, trapped := false } ∧
      (o.live = false → t.ctxAt c g.ctx = ctx) ∧
      (o.live = true → ∀ id, ctx.task = some id → (t.ctxAt c g.ctx).occ = .free ∧ t.taskAt id = none) ∧
      (o.live = false ∨ (ctx.cm.phase ≠ .merge ∧ ctx.cm.phase ≠ .ordered) → t.mem = s.mem)) ∧
    (∀ e rest, s.dev.toEnts = e :: rest → e.time.toNat ≤ s.timeNs → exec .timedOutputFire s = .next (s.modDev fun d =>
      { d with toLevel := (d.toLevel &&& ~~~e.mask) ||| (e.level &&& e.mask), toEnts := rest })) ∧
    ((∀ e ∈ s.dev.toEnts.head?, s.timeNs < e.time.toNat) → exec .timedOutputFire s = .next s)

/-! ### Token coherence (R294 to R309, R402 to R406, R427) -/

/-- R300 to R304: requests and their answers. At a slice with valid data a read takes one of two or more tokens, and RDX and UPG all
256; otherwise every token of the slice goes to the requester and the request goes on to the home. The idle home gives a read one
token with the data, forwards it to the hinted owner's die when the owner token is in a cache, and gathers for RDX and UPG, and
for a read where neither holds: its own tokens go to the requester and FWD to the slices of the hinted dies. CNV turns a request
into RDX. FWD at a slice gives one token to a read and all to RDX and UPG, and goes on to the cores of its die that hold tokens;
FWD of FORWARD concerns the owner-token holder alone. CNV that comes before its UPG is kept, and the UPG is served as RDX then.
A token with data that answers a read goes to the access-table entry and
ends the request with DONE; the data is at the core then, with its L1D or its port. DONE makes the home idle. What keeps the
directory hint current is the model's choice (log 39), as is that a core holds valid data through its entry's token (log 49). That a
lent token which nobody asked for any more goes home, where it is owed to its lender no more, is the model's reading of R309
(log 38).
Completes: rd, rdx, upg, cnv, fwd, tok, done. -/
def Obligations.TokenRequests : Prop :=
  ∀ (s : State) (r : Req) (held : Nat) (d : Bool) (m : TokMsg), (s.activeOf r.line) = none → rqIsCore r.rq = true →
    let line := r.line
    let l := s.lineAt line
    let own := dieOf (rqCore r.rq)
    let h := l.sliceHold own
    let home := l.home
    let rd : Req := { r with kind := .rd }
    let rdx : Req := { r with kind := .rdx }
    let upg : Req := { r with kind := .upg }
    let one : Hold := ⟨1, false, false, true⟩
    let placed := (assoc (s.dieAt own).l2 line).isSome = true
    let slice (i : Instr) (h' : Hold) (ms : List Instr) : Prop :=
      Does i s fun t => (t.lineAt line).sliceHold own = h' ∧ Sends s t ms ∧ OnlyLine line s t
    let served (i : Instr) (l' : LineSt) (ms : List Instr) : Prop := Does i s fun t => t.lineAt line = l' ∧ Sends s t ms ∧
      t.mem = s.mem ∧ (∀ k, k ≠ line → t.lineAt k = s.lineAt k) ∧ t.coh.outs = s.coh.outs ∧ ∀ c x, t.ctxAt c x = s.ctxAt c x
    let gathers (i : Instr) (q : Req) (asked : Bool) : Prop := served i
      { l with home := if home.count = 0 then home else Hold.none, st := .gather, serving := some q, cnv := l.cnv.erase r.rq }
      (tokOf line r.rq home asked none ++ (s.hintedDies line).map fun e => .fwd q (.slice e))
    -- at the slice of the requester's die
    (2 ≤ h.count → h.valid = true → placed → slice (.rd r .slice) { h with count := h.count - 1 } (tokOf line r.rq one true none)) ∧
    (h.count < 2 ∨ h.valid = false → slice (.rd r .slice) Hold.none (tokOf line r.rq h true none ++ [.rd rd .home])) ∧
    (h.count = 256 → placed → slice (.rdx r .slice) Hold.none (tokOf line r.rq h true none)) ∧
    (h.count ≠ 256 → slice (.rdx r .slice) Hold.none (tokOf line r.rq h true none ++ [.rdx rdx .home])) ∧
    (h.count = 256 → placed → slice (.upg r held .slice) Hold.none (tokOf line r.rq h false none)) ∧
    (h.count ≠ 256 → slice (.upg r held .slice) Hold.none (tokOf line r.rq h false none ++ [.upg upg held .home])) ∧
    -- at the home
    (l.st = .idle → l.wbPend = false → l.waiting = [] → s.needsSweep line = false →
      (∃ o, s.outOf r.rq line = some o ∧ o.converted = false ∧ o.use ≠ .home) →
      (home.owner = true → 2 ≤ home.count → r.rq ∉ l.cnv →
        served (.rd r .home) { l with home := ⟨home.count - 1, true, home.dirty, true⟩ } (tokOf line r.rq one true none)) ∧
      (home.owner = false → r.rq ∉ l.cnv → ∀ t e, s.hintOf line = some t → t.owner = some e →
        served (.rd r .home) { l with st := .forward, serving := some rd } [.fwd rd (.slice e)]) ∧
      (home.owner = true → home.count < 2 → r.rq ∉ l.cnv → gathers (.rd r .home) rd true) ∧
      (home.owner = false → r.rq ∉ l.cnv → (∀ t, s.hintOf line = some t → t.owner = none) → gathers (.rd r .home) rd true) ∧
      gathers (.rdx r .home) rdx true ∧ (r.rq ∉ l.cnv → gathers (.upg r held .home) upg false) ∧
      (r.rq ∈ l.cnv → gathers (.upg r held .home) rdx true)) ∧
    (Does (.cnv line r.rq) s fun t => Sends s t [] ∧ OnlyLine line s t ∧
      (∀ q, l.serving = some q → q.rq = r.rq → (t.lineAt line).serving = some { q with kind := .rdx }) ∧
      (∀ q, q ∈ l.waiting → q.rq = r.rq → { q with kind := .rdx } ∈ (t.lineAt line).waiting) ∧
      ((∀ q, l.serving = some q ∨ q ∈ l.waiting → q.rq ≠ r.rq) → (∃ o, s.outOf r.rq line = some o) →
        r.rq ∈ (t.lineAt line).cnv) ∧
      (t.lineAt line).home = home) ∧
    -- a forwarded request at a slice
    (let k := l.sliceHold d
     let cores := (l.coresBut r.rq).filter fun c => dieOf c == d
     let on (p : CoreId → Bool) : List Instr := (cores.filter p).map fun c => .fwd r (.l1d c)
     let fwd (h' : Hold) (ms : List Instr) : Prop := Does (.fwd r (.slice d)) s fun t =>
       (t.lineAt line).sliceHold d = h' ∧ Sends s t ms ∧ OnlyLine line s t
     (l.st ≠ .forward ∨ r.kind ≠ .rd →
       (r.kind = .rd → 2 ≤ k.count →
         fwd { k with count := k.count - 1 } (tokOf line r.rq ⟨1, false, false, k.valid⟩ true none ++ on fun _ => true)) ∧
       (r.kind = .rd → k.count = 1 → k.owner = true → fwd Hold.none (tokOf line r.rq k true none ++ on fun _ => true)) ∧
       (r.kind = .rd → k.count = 1 → k.owner = false → fwd k (on fun _ => true)) ∧
       (r.kind = .rdx → fwd Hold.none (tokOf line r.rq k true none ++ on fun _ => true)) ∧
       (r.kind = .upg → fwd Hold.none (tokOf line r.rq k false none ++ on fun _ => true))) ∧
     (l.st = .forward → r.kind = .rd →
       (k.owner = true → 2 ≤ k.count →
         fwd { k with count := k.count - 1 } (tokOf line r.rq ⟨1, false, false, k.valid⟩ true none)) ∧
       (k.owner = true → k.count = 1 → fwd Hold.none (tokOf line r.rq k true none)) ∧
       (k.owner = false → fwd k (on l.ownerAt)))) ∧
    -- a token with data that answers a read
    (∀ o, m.line = line → m.rq = r.rq → s.outOf r.rq line = some o → o.req = rd → o.converted = false →
      m.count = 1 → m.owner = false → m.data = true → rqCore r.rq ∉ l.rats →
      let arrived (t : State) : Prop := (t.lineAt line).rats = l.rats ++ [rqCore r.rq] ∧
        Sends s t [.done line r.rq] ∧ t.outOf r.rq line = none ∧
        (∃ k, assoc (t.ctxAt (rqCore r.rq) (rqCtx r.rq)).recs line = some k) ∧ t.mem = s.mem
      (o.use = .engine → Does (.tok m) s fun t => arrived t ∧ rqCore r.rq ∈ (t.lineAt line).port) ∧
      (o.use = .scalar → l.nc = false → rqCore r.rq ∉ l.lent →
        ((s.coreAt (rqCore r.rq)).l1d.filter fun k => l1dSet k == l1dSet line).length < 4 → Does (.tok m) s fun t =>
          arrived t ∧ line ∈ (t.coreAt (rqCore r.rq)).l1d ∧ (t.lineAt line).coreData (rqCore r.rq) = true)) ∧
    -- a lent token that nobody asked for
    (∀ k, m.line = line → m.rq = r.rq → s.outOf r.rq line = none → m.lender = some k → 0 < m.count → Does (.tok m) s fun t =>
      Sends s t [.wb line m.count m.owner m.dirty] ∧ OnlyLine line s t ∧ k ∉ (t.lineAt line).lent ∧
      (k ∈ l.lent → k ∉ (t.lineAt line).rats) ∧
      (∀ j, j ≠ k → ((j ∈ (t.lineAt line).rats ↔ j ∈ l.rats) ∧ (j ∈ (t.lineAt line).lent ↔ j ∈ l.lent))) ∧
      { t.lineAt line with rats := l.rats, lent := l.lent } = l) ∧
    -- the end of a request
    ((∃ q, l.serving = some q ∧ q.rq = r.rq) → l.st ≠ .persist → l.waiting = [] → s.coh.homeOps = [] →
      Does (.done line r.rq) s fun t =>
        t.lineAt line = { l with st := .idle, serving := none, cnv := l.cnv.erase r.rq } ∧ Sends s t [] ∧ OnlyLine line s t)

/-- R302 to R306, R308: tokens written back join those of the home, whose copy is current and clean once it has the owner token; the
home writes the line to memory (WBPEND) before it serves another request. A lent token returns to its entry; one whose entry is
gone joins the line in the core's L1D. Tokens written back while the home serves a request for every token go on to its requester,
the dirty bit with the owner token (R296). CFL makes a commit or atomic convert its incomplete requests, as does a wait beyond the
gather bound and 200 cycles for a line that it does not have yet: DONE to the home, PREQ to the arbiter. That a request of the
home itself is converted after the same time is the model's choice (log 50), as is that an event which is not enabled leaves the
state as it was (log 1).
Completes: cfl, rtn, wb, wbWritePosted, persistentConversion. -/
def Obligations.WriteBacksAndConversion : Prop :=
  ∀ (s : State) (line count : Nat) (owner dirty : Bool) (c : CoreId) (rq dst : Rq) (o : OutReq),
    let l := s.lineAt line
    (s.activeOf line = none → l.serving = none → Does (.wb line count owner dirty) s fun t =>
      t.lineAt line = { l with
        home := ⟨l.home.count + count, l.home.owner || owner, false, l.home.owner || owner⟩
        stale := if owner then none else l.stale, wbPend := true } ∧
      Sends s t [.wbWritePosted line] ∧ OnlyLine line s t) ∧
    (∀ q, s.activeOf line = none → l.serving = some q → q.line = line → s.stillAsked q = true → s.goesHome q.rq line = false →
      q.kind ≠ .rd → 0 < count → Does (.wb line count owner dirty) s fun t =>
        (t.lineAt line).home = Hold.none ∧ (t.lineAt line).wbPend = true ∧ OnlyLine line s t ∧
        Sends s t (tokOf line q.rq
          ⟨l.home.count + count, l.home.owner || owner, l.home.dirty || dirty, l.home.owner || owner⟩ (q.kind != .upg) none ++
            [.wbWritePosted line])) ∧
    (l.waiting = [] → s.coh.homeOps = [] → Does (.wbWritePosted line) s fun t =>
      t.lineAt line = { l with wbPend := false } ∧ Sends s t [] ∧ OnlyLine line s t) ∧
    (c ∈ l.rats → c ∈ l.lent → l.lent.Nodup → s.activeOf line = none → Does (.rtn line c) s fun t =>
      (t.lineAt line).ratHolds c = true ∧ (t.lineAt line).rats = l.rats ∧ Sends s t [] ∧ OnlyLine line s t) ∧
    (c ∉ l.rats → s.activeOf line = none → l.nc = false → line ∈ (s.coreAt c).l1d → s.utL1d c line = none →
      Does (.rtn line c) s fun t => (t.lineAt line).l1dHold c = { l.l1dHold c with count := (l.l1dHold c).count + 1 } ∧
        Sends s t [] ∧ OnlyLine line s t) ∧
    (s.outOf dst line = some o → o.req.cmt = true → rqIsCore dst = true → o.use ≠ .home → (s.lineAt line).coreTokens (rqCore dst) ≠ 256 →
      Does (.cfl line ⟨rq, dst⟩) s fun t =>
        t.outOf dst line = some { o with converted := true } ∧
        (o.converted = false → (.done line dst) ∈ t.coh.net ∧ (.preq o.req) ∈ t.coh.net) ∧
        t.mem = s.mem ∧ t.cores = s.cores ∧ ∀ k, t.lineAt k = s.lineAt k) ∧
    (s.outOf dst line = some o → o.req.cmt = false → exec (.cfl line ⟨rq, dst⟩) s = .next s) ∧
    (s.outOf dst line = none → exec (.cfl line ⟨rq, dst⟩) s = .next s) ∧
    (s.outOf rq line = some o → rq.toNat ≠ 514 → o.converted = false →
      let late := if o.use = .home then o.since + ((o.bound + 200) * 10 + 16) / 17 ≤ s.timeNs
        else o.since + o.bound + 200 ≤ (s.coreAt (rqCore rq)).cycle
      let complete := o.req.cmt = true ∧ o.use ≠ .home ∧ l.coreTokens (rqCore rq) = 256
      let due := late ∧ ¬ complete ∧ o.use ≠ .untracked
      (¬ due → exec (.persistentConversion line rq) s = .next s) ∧
      (due → Does (.persistentConversion line rq) s fun t =>
        t.outOf rq line = some { o with converted := true } ∧ Sends s t [.done line rq, .preq o.req] ∧
        t.mem = s.mem ∧ t.cores = s.cores ∧ ∀ k, t.lineAt k = s.lineAt k)) ∧
    (s.outOf rq line = none → exec (.persistentConversion line rq) s = .next s)

/-- R307, R308, R402, R404 to R406, R427: a PREQ that finds its line free and a slot in its pool is activated, with the next activation
number, and PACT goes to every core and slice that holds tokens and to the home; under PACT the home sends all its tokens and
stays in PERSIST, and a slice gives all it has; PDONE ends the activation, and PREL to those that had the PACT lets the home go
on; after 8,000 cycles an activation is logged and the tokens of its line are recreated first; 3,200 cycles after its own
activation a recreation leaves all 256 tokens, clean, at the home and none elsewhere, with memory's older line where the owner
token did not return, which is poisoned after a failover or when that copy's check bits fail; a timeout over a lost stage
link of the requester's die, or of one that holds tokens of the line, is a die-level event instead, and the request is
withdrawn; a line that the scrub finds uncorrectable is poisoned, and one whose metadata word is has its tokens recreated. An event
that is not enabled leaves the state as it was (the model's choice, log 1).
Completes: preq, pact, pdone, prel, persistentTimeout, tokenRecreationComplete, patrolScrub, failoverTokenSweep. -/
def Obligations.PersistentRequests : Prop :=
  ∀ (s : State) (r : Req) (d : Bool) (a : ActiveReq),
    let line := r.line
    let l := s.lineAt line
    let arb := s.coh.arb
    let slots (p : Pool) : Nat := match p with | .ordinary => 64 | .guarded => 64 | .recreation => 4
    let recreated (t : State) : Prop := line ∈ t.coh.epochChecked ∧
      ((∃ q ∈ t.coh.arb.waiting, q.rq.toNat = 514 ∧ q.line = line) ∨ ∃ b ∈ t.coh.arb.active, b.req.rq.toNat = 514 ∧ b.req.line = line) ∧
      t.mem = s.mem ∧ t.cores = s.cores
    (s.activeOf line = none → (∀ q ∈ arb.waiting, q.line ≠ line) →
      (arb.active.filter fun b => b.pool == s.poolOf r).length < slots (s.poolOf r) → Does (.preq r) s fun t =>
        t.activeOf line = some ⟨r, arb.next, s.poolOf r, s.timeNs, s.holdersFor line r.rq⟩ ∧ t.coh.arb.next = arb.next + 1 ∧
        t.coh.arb.waiting = arb.waiting ∧
        Sends s t ((s.holdersFor line r.rq).map fun k => .pact r arb.next k) ∧ Holder.home ∈ s.holdersFor line r.rq ∧
        (∀ e, l.sliceHold e ≠ Hold.none → Holder.slice e ∈ s.holdersFor line r.rq) ∧
        (∀ c, 0 < l.coreTokens c → rqCore r.rq ≠ c → Holder.l1d c ∈ s.holdersFor line r.rq) ∧
        OnlyLine line s t ∧ t.lineAt line = l) ∧
    (s.activeOf line = some a → a.req.line = line →
      ((s.ctxAt (rqCore r.rq) (rqCtx r.rq)).cm.phase ≠ .gather → (∀ q ∈ arb.waiting, q.rq ≠ r.rq ∨ q.line ≠ line) →
        (∀ b ∈ arb.active, b.req.rq ≠ r.rq ∨ b.req.line ≠ line) → Does (.preq r) s fun t =>
          t.coh.arb.waiting = arb.waiting ++ [r] ∧ t.coh.arb.active = arb.active ∧ Sends s t [] ∧ OnlyLine line s t) ∧
      (∀ k, a.act ≠ k → ∀ dst, exec (.pact r k dst) s = .next s) ∧
      (rqIsCore r.rq = true → s.goesHome r.rq line = false → (∀ b ∈ arb.active, a.act ≤ b.act) →
        Does (.pact r a.act .home) s fun t => (t.lineAt line).st = .persist ∧ (t.lineAt line).serving = none ∧
          (t.lineAt line).home.count = 0 ∧ Sends s t (tokOf line r.rq l.home (r.kind != .upg) none) ∧ OnlyLine line s t) ∧
      (Does (.pact r a.act (.slice d)) s fun t => (t.lineAt line).sliceHold d = Hold.none ∧
        Sends s t (tokOf line r.rq (l.sliceHold d) (r.kind != .upg) none) ∧ OnlyLine line s t) ∧
      (a.req.rq = r.rq → arb.waiting = [] → (∀ b ∈ arb.active, b.req.line = line → b.req.rq = r.rq) →
        Does (.pdone line r.rq) s fun t => t.activeOf line = none ∧ Sends s t (a.told.map fun k => .prel ⟨line, k⟩) ∧
          OnlyLine line s t ∧ t.lineAt line = l) ∧
      (a.req.rq.toNat ≠ 514 →
        let due := a.sinceNs + (8000 * 10 + 16) / 17 ≤ s.timeNs
        (¬ due → ∀ e, exec (.persistentTimeout ⟨line, e⟩) s = .next s) ∧
        (∀ e, due → s.log.entries.length < 48 → (rqIsCore a.req.rq = true ∧ dieOf (rqCore a.req.rq) = e ∨ l.onDie e = true) →
          s.dieFitted e = true → s.dieReady e = true → Does (.persistentTimeout ⟨line, some e⟩) s fun t =>
            (t.dieAt e).failed = true ∧ t.dieReady e = false ∧
            ∃ e ∈ t.log.entries, e.src = 0x29 ∧ e.sev = 3 ∧ e.addr = BitVec.ofNat 64 (line * 64)) ∧
        (∀ lost, (∀ e, lost = some e → ¬ (rqIsCore a.req.rq = true ∧ dieOf (rqCore a.req.rq) = e) ∧ l.onDie e = false) →
          due → s.log.entries.length < 48 → (arb.active.filter fun b => b.pool == .recreation).length < 4 →
          (∀ q ∈ arb.waiting, q.rq.toNat ≠ 514 ∨ q.line ≠ line) →
          Does (.persistentTimeout ⟨line, lost⟩) s fun t =>
            (∃ b, t.activeOf line = some b ∧ b.req.rq.toNat = 514 ∧ b.req.line = line) ∧ a.req ∈ t.coh.arb.waiting ∧
            (∃ e ∈ t.log.entries, e.src = 0x29 ∧ e.sev = 3 ∧ e.addr = BitVec.ofNat 64 (line * 64)) ∧ t.mem = s.mem)) ∧
      (a.req.rq.toNat = 514 →
        let due := a.sinceNs + (3200 * 10 + 16) / 17 ≤ s.timeNs
        (¬ due → ∀ bad, exec (.tokenRecreationComplete ⟨line, bad⟩) s = .next s) ∧
        (∀ bad, due → s.coh.homeOps = [] → Memory.wf s.mem = true → Does (.tokenRecreationComplete ⟨line, bad⟩) s fun t =>
          let k := t.lineAt line
          k.home = ⟨256, true, false, true⟩ ∧ k.l1d = [] ∧ k.slices = [] ∧ k.gath = [] ∧ k.rats = [] ∧ k.lent = [] ∧
          k.homeLent = [] ∧ k.port = [] ∧ (l.home.owner = true ∨ l.stale = none → t.mem = s.mem) ∧
          (∀ old, l.home.owner = false → l.stale = some old → ∀ i, t.byteAt i =
            if i / 64 = line then old.extractLsb' (8 * (i % 64)) 8 else s.byteAt i) ∧
          (∀ i ∈ t.coh.net, carries line i = false) ∧ (∀ k ∈ a.told, Instr.prel ⟨line, k⟩ ∈ t.coh.net) ∧
          (l.home.owner = false → bad = true ∨ (s.dieAt false).failed = true ∨ (s.dieAt true).failed = true → line ∈ t.coh.poison) ∧
          ∀ i, i ≠ line → t.lineAt i = s.lineAt i))) ∧
    (l.st = .persist → l.waiting = [] → s.coh.homeOps = [] → Does (.prel ⟨line, .home⟩) s fun t =>
      t.lineAt line = { l with st := .idle } ∧ Sends s t [] ∧ OnlyLine line s t) ∧
    (∀ k, k ≠ Holder.home → exec (.prel ⟨line, k⟩) s = .next s) ∧
    (Does (.patrolScrub line .data) s fun t => line ∈ t.coh.poison ∧ t.mem = s.mem ∧ t.cores = s.cores) ∧
    exec (.patrolScrub line .clean) s = .next s ∧
    (s.recreating line = true → exec (.patrolScrub line .word) s = .next s) ∧
    (s.recreating line = false → Does (.patrolScrub line .word) s recreated) ∧
    (s.needsSweep line = true → Does (.failoverTokenSweep line) s recreated) ∧
    (s.needsSweep line = false → exec (.failoverTokenSweep line) s = .next s)

/-! ### The host, other devices, links and time (R226, R283, R286, R288, R289, R335, R338, R346, R347, R403, R407 to R412) -/

/-- R226, R283, R286, R288, R289, R292, R293, R335, R396, R403, R408: the host reads and writes lines of device memory, and another
device lines of this one's tensors, each at one point; an arriving write or atomic is taken once, by its sequence number,
translated here, and performed by the home once it holds every token; acknowledgements are counted off; a request outside the
supported features gets an error response, of which protocol the step does not tell (log 9). The host's write of a part of a
poisoned line is discarded with an error response; its first read of a line after a failover waits for the recreation of the
line's tokens. The acknowledgement of an atomic that a context waits for brings the old value, a free value here (the model's
choice, log 14). An event that is not enabled leaves the state as it was (the model's choice, log 1). A refused access is told to the device that asked, and a refused
write is dropped and acknowledged (the model's choice, log 40). The bytes of a host line that the host takes back are free (the
model's choice, log 14).
Completes: hostCxlMemRead, hostCxlMemWrite, hostWriteAck, remoteLineWrite, remoteRead, remoteAtomic, remoteWriteAck,
cxlCacheSnoop, unsupportedRequest. -/
def Obligations.HostAndOtherDevices : Prop :=
  ∀ (s : State) (line seq : Nat) (mask : BitVec 64) (data : BitVec 512) (c : CoreId) (x : CtxId) (src : BitVec 4)
    (tline : BitVec 58) (addr : Word) (wide : Bool) (op : Option AmoOp) (y z : Word), Memory.wf s.mem = true →
    let poison := s.coh.poison.contains line
    let byte (k : Nat) : Byte := data.extractLsb' (8 * (k % 64)) 8
    -- the line is at a home that holds every token, serves nobody and has nothing else to perform
    let alone (rq : Rq) := s.lineAt line = LineSt.reset ∧ s.coh.homeOps = [] ∧ s.outOf rq line = none ∧ s.activeOf line = none
    let hit (m : BitVec 64) (t : State) : Prop := line ∉ t.coh.poison ∧
      (∀ c x, (∀ k, assoc (s.ctxAt c x).recs line = some k → k &&& m = 0) → (t.ctxAt c x).r = (s.ctxAt c x).r) ∧
      (∀ c x k, assoc (s.ctxAt c x).recs line = some k → k &&& m ≠ 0 → (s.ctxAt c x).cm.phase ≠ .merge →
        (s.ctxAt c x).cm.phase ≠ .ordered → (t.ctxAt c x).opened = false)
    let put (t : State) : Prop := hit mask t ∧
      ∀ a, t.byteAt a = if a / 64 = line ∧ mask.getLsbD (a % 64) = true then byte a else s.byteAt a
    let whole := poison = true → mask = BitVec.allOnes 64
    let next := (s.dev.seqIn[src.toNat]'src.isLt)
    let n := if wide then 8 else 4
    -- byte i of the line of tensor addresses lies at byte i of the line
    let here (i : Nat) (store : Bool) := line < 2 ^ 58 ∧ ∃ k, s.byteKey (tline.toNat * 64 + i) store = some (line * 64 + i, k)
    let taken (t : State) : Prop := t.dev.seqIn[src.toNat]'src.isLt = seq + 1 ∧ t.dev.acks = s.dev.acks ++ [(src, seq)]
    let answer (k : RemoteReply) (t : State) : Prop := t.dev.reads = s.dev.reads ++ [k]
    (s.hostReach line = true → s.coh.homeOps = [] → s.needsSweep line = false → s.recreating line = false →
      exec (.hostCxlMemRead line) s = .next (s.modDev fun d =>
      { d with hostReads := d.hostReads ++ [(line, BitVec.ofNat 512 (cellNat s.mem (line * 64) 64), poison)] })) ∧
    (s.hostReach line = true → s.coh.homeOps = [] → s.needsSweep line = true → Does (.hostCxlMemRead line) s fun t =>
      t.dev = s.dev ∧ t.recreating line = true ∧ t.mem = s.mem ∧ t.cores = s.cores) ∧
    (s.hostReach line = false → exec (.hostCxlMemRead line) s = .next s ∧ exec (.hostCxlMemWrite line mask data) s = .next s) ∧
    (s.hostReach line = true → alone 512 → whole → Does (.hostCxlMemWrite line mask data) s put) ∧
    (s.hostReach line = true → alone 512 → ¬ whole → Does (.hostCxlMemWrite line mask data) s fun t =>
      t.dev.hostErrors = s.dev.hostErrors ++ [.mem] ∧ line ∈ t.coh.poison ∧ t.mem = s.mem ∧ t.cores = s.cores) ∧
    exec (.hostWriteAck c x) s = .next (s.modCtx c x fun v => { v with hostUnacked := v.hostUnacked - 1 }) ∧
    (next ≠ seq → exec (.remoteLineWrite src seq tline mask data) s = .next s ∧
      exec (.remoteAtomic src seq addr wide op y z) s = .next s) ∧
    (next = seq → alone 513 → whole → mask ≠ 0 → (∀ i, i < 64 → mask.getLsbD i = true → here i true) →
      Does (.remoteLineWrite src seq tline mask data) s fun t => put t ∧ taken t) ∧
    (next = seq → (∃ i, i < 64 ∧ mask.getLsbD i = true ∧ s.byteKey (tline.toNat * 64 + i) true = none) →
      Does (.remoteLineWrite src seq tline mask data) s fun t => taken t ∧ t.mem = s.mem ∧ t.cores = s.cores ∧ t.coh = s.coh) ∧
    (next = seq → addr.toNat / 64 = tline.toNat → addr.toNat % n = 0 →
      let off := addr.toNat % 64
      (alone 513 → poison = false → (∀ i, i < n → here (off + i) true) →
        Does (.remoteAtomic src seq addr wide op y z) s fun t => taken t ∧ hit (maskOf 0 ((List.range n).map fun i => off + i)) t ∧
          cellNat t.mem (line * 64 + off) n = atomicNew op n (cellNat s.mem (line * 64 + off) n) y.toNat z.toNat % 2 ^ (8 * n) ∧
          (∀ a, a < line * 64 + off ∨ line * 64 + off + n ≤ a → t.byteAt a = s.byteAt a) ∧
          answer ⟨src, tline.toNat, some (BitVec.ofNat 512 (cellNat s.mem (line * 64) 64)), false⟩ t) ∧
      ((∃ i, i < n ∧ s.byteKey (addr.toNat + i) true = none) → Does (.remoteAtomic src seq addr wide op y z) s fun t =>
        taken t ∧ answer ⟨src, tline.toNat, none, false⟩ t ∧ t.mem = s.mem ∧ t.cores = s.cores ∧ t.coh = s.coh)) ∧
    (here 0 false → s.coh.homeOps = [] → s.needsSweep line = false → s.recreating line = false → exec (.remoteRead src tline) s = .next (s.modDev fun d =>
      { d with reads := d.reads ++ [⟨src, tline.toNat, some (BitVec.ofNat 512 (cellNat s.mem (line * 64) 64)), poison⟩] })) ∧
    (s.byteKey (tline.toNat * 64) false = none → exec (.remoteRead src tline) s = .next (s.modDev fun d =>
      { d with reads := d.reads ++ [⟨src, tline.toNat, none, false⟩] })) ∧
    (let u := s.modDev fun d => { d with unacked := d.unacked.filter fun w => !(w.dst == src && w.seq == seq) }
     let asks (c : CoreId) (x : CtxId) : Prop := ∃ i, (s.ctxAt c x).infl = some i ∧ i.msg = some (src, seq)
     let sent (w : RemoteWrite) : Prop := s.dev.unacked.find? (fun w => w.dst == src && w.seq == seq) = some w
     ((∀ w, sent w → ¬ asks w.owner.1 w.owner.2) → exec (.remoteWriteAck src seq) s = .next u) ∧
     (∀ w, sent w → asks w.owner.1 w.owner.2 → exec (.remoteWriteAck src seq) s =
       .next ({ u with free := s.free + 1 }.modCtx w.owner.1 w.owner.2 fun v => { v with homeAns := some (Config.freeWord s.free) }))) ∧
    (∃ proto : LinkProto, exec .unsupportedRequest s =
      .next { s with dev := { s.dev with hostErrors := s.dev.hostErrors ++ [proto] }, free := s.free + 2 }) ∧
    (s.rangeOf (line * 64) ≠ .host → ∀ k, exec (.cxlCacheSnoop line k) s = .next s) ∧
    (s.rangeOf (line * 64) = .host →
      (Does (.cxlCacheSnoop line (.update data)) s fun t =>
        (∀ a, t.byteAt a = if a / 64 = line then byte a else s.byteAt a) ∧ t.cores = s.cores ∧
        ∀ u ∈ t.coh.ut, u.line = line → u.data = data) ∧
      (Does (.cxlCacheSnoop line .invalidate) s fun t =>
        (∀ a, a / 64 ≠ line → t.byteAt a = s.byteAt a) ∧ (∀ k, { t.coreAt k with l1d := (s.coreAt k).l1d } = s.coreAt k) ∧
        (∀ u ∈ t.coh.ut, u.line ≠ line) ∧
        ∀ a, a / 64 = line → t.byteAt a = (Config.freeLine s.free).extractLsb' (8 * (a % 64)) 8))

/-- R335, R338, R346, R407, R409, R410 to R412, R347: a flit with a bad CRC is sent again, and the ninth failure in a row takes the port
down with its LINK bit and routes; what a device on a new route has not acknowledged is sent again, and a device with no route
left is unreachable, its unacknowledged writes dropped; which routes Wyane finds instead is an input (log 42). The polynomial of
the CRC-64 is a free value (log 62). Lane lock brings a port up; HOSTMEM rises with a host link of a supported width
and rate. A synchronisation message within 1 µs keeps the time lock, and TIME follows it by slewing (the model's choice,
log 45); an offset above it, or no message for 1 s, loses the lock with an entry of SEV 3. TIMEBASE rises once the limit of
100 ns has held for 1 s. An event that is not enabled leaves the state as it was (the model's choice, log 1). Relock steps TIME forward when it lags by more than 1 ms and slews it otherwise; a PPS pulse sets the
master.
Completes: flitReceive, linkDown, timeSyncMessage, timeLockLoss, timeRelock, timebaseReady, timeSlewEnd, ppsEdge, laneLock,
hostLinkTrained. -/
def Obligations.LinksAndTime : Prop :=
  ∀ (s : State) (p : BitVec 2) (lanes gts ns : Nat) (rs : List Route) (f : Flit),
    let l := s.dev.links[p.toNat]'p.isLt
    let tb := s.dev.tb
    let link (t : State) (l' : Link) : Prop := t.dev.links[p.toNat]'p.isLt = l' ∧
      (∀ q : BitVec 2, q ≠ p → t.dev.links[q.toNat]'q.isLt = s.dev.links[q.toNat]'q.isLt) ∧ t.mem = s.mem ∧ t.cores = s.cores
    let time (t : State) (tb' : TimeBase) : Prop := t = s.modDev fun d => { d with tb := tb' }
    let good := f.crc = Config.crc64 (f.header ++ f.payload)
    let down (rs : List Route) (t : State) : Prop := link t { l with locked := false, up := false, retries := 0 } ∧
      t.dev.funcReady.getLsbD (26 + p.toNat) = false ∧
      (∀ r ∈ t.dev.routes, r.2.1 ≠ p ∧ (r ∈ s.dev.routes ∨ r ∈ rs)) ∧ (∀ r ∈ s.dev.routes, r.2.1 ≠ p → r ∈ t.dev.routes) ∧
      (∀ r ∈ t.dev.routes, r ∉ s.dev.routes → ∀ w ∈ s.dev.unacked, w.dst = r.1 → (w.dst, w.seq) ∈ t.dev.sent) ∧
      ∀ r ∈ s.dev.routes, (∀ q ∈ t.dev.routes, q.1 ≠ r.1) → ∀ w ∈ t.dev.unacked, w.dst ≠ r.1
    let off := if s.timeNs ≤ ns then ns - s.timeNs else s.timeNs - ns
    let held : Option Nat := if off ≤ 100 then some (tb.goodSince.getD s.timeNs) else none
    let lost (t : State) : Prop := t.dev.funcReady.getLsbD 30 = false ∧ t.dev.tb.locked = false ∧ t.timeNs = s.timeNs ∧ t.mem = s.mem ∧ t.cores = s.cores ∧
      (s.log.entries.length < 48 → ∃ e ∈ t.log.entries, e.src = 0x2B ∧ e.sev = 3)
    let slewed : TimeBase := { tb with slewTo :=
      if (tb.units : Int) - ns * Config.unitsPerNs = 0 then none else some (tb.units - ns * Config.unitsPerNs) }
    (l.up = false → exec (.flitReceive p f) s = .next s ∧ exec (.linkDown ⟨p, rs⟩) s = .next s) ∧
    (l.up = true →
      (good → Does (.flitReceive p f) s fun t => link t { l with retries := 0 } ∧ t.dev.routes = s.dev.routes) ∧
      (¬ good → l.retries < 8 → Does (.flitReceive p f) s fun t => link t { l with retries := l.retries + 1, resent := l.resent + 1 } ∧
        t.log.ce = satInc s.log.ce ∧ t.dev.routes = s.dev.routes) ∧
      (¬ good → 8 ≤ l.retries → Does (.flitReceive p f) s (down f.reroutes)) ∧ Does (.linkDown ⟨p, rs⟩) s (down rs)) ∧
    (s.linkFitted p.toNat = false → exec (.laneLock p) s = .next s) ∧
    (s.linkFitted p.toNat = true → Does (.laneLock p) s fun t => link t { l with locked := true, up := true, retries := 0 } ∧
      t.dev.funcReady.getLsbD (26 + p.toNat) = l.configured) ∧
    (lanes ∈ [4, 8, 16] → gts ∈ [8, 16, 32, 64] → Does (.hostLinkTrained lanes gts) s fun t =>
      t.dev.funcReady = s.dev.funcReady ||| 0x200000000 ∧ t.dev.hostLanes = lanes ∧ t.dev.hostGts = gts ∧
      t.mem = s.mem ∧ t.cores = s.cores) ∧
    (lanes ∉ [4, 8, 16] ∨ gts ∉ [8, 16, 32, 64] → exec (.hostLinkTrained lanes gts) s = .next s) ∧
    (tb.master = true → exec (.timeSyncMessage ns) s = .next s ∧ exec .timeLockLoss s = .next s) ∧
    (tb.master = false →
      (off ≤ 1000 → Does (.timeSyncMessage ns) s fun t => time t { tb with
        lastSyncNs := s.timeNs, goodSince := held, slewTo := if tb.locked then slewed.slewTo else tb.slewTo }) ∧
      (1000 < off → tb.locked = true → Does (.timeSyncMessage ns) s fun t => lost t ∧ t.dev.tb.master = false) ∧
      (1000 < off → tb.locked = false → Does (.timeSyncMessage ns) s fun t =>
        time t { tb with lastSyncNs := s.timeNs, goodSince := none }) ∧
      (s.timeNs < tb.lastSyncNs + 1000000000 → exec .timeLockLoss s = .next s) ∧
      (tb.lastSyncNs + 1000000000 ≤ s.timeNs → tb.locked = true → Does .timeLockLoss s fun t => lost t ∧
        t.dev.tb.master = (tb.backup == some s.dev.devNo))) ∧
    (s.timeNs + 1000000 < ns → Does (.timeRelock ns) s fun t => t.timeNs = ns ∧ t.dev.tb.slewTo = none ∧
      t.dev.toEnts = s.dev.toEnts.filter (fun e => !decide (e.time.toNat < ns)) ∧ t.mem = s.mem ∧ t.cores = s.cores) ∧
    (ns ≤ s.timeNs + 1000000 → Does (.timeRelock ns) s fun t => time t slewed) ∧
    ((∃ g, tb.goodSince = some g ∧ g + 1000000000 ≤ s.timeNs) → Does .timebaseReady s fun t =>
      t.dev.funcReady = s.dev.funcReady ||| 0x40000000 ∧
      t.dev.tb = { tb with locked := true, lastSyncNs := s.timeNs } ∧ t.mem = s.mem ∧ t.cores = s.cores) ∧
    ((∀ g, tb.goodSince = some g → s.timeNs < g + 1000000000) → exec .timebaseReady s = .next s) ∧
    (tb.slewTo = some 0 → Does .timeSlewEnd s fun t => time t { tb with slewTo := none }) ∧
    (tb.slewTo ≠ some 0 → exec .timeSlewEnd s = .next s) ∧
    (tb.master = false → exec (.ppsEdge ns) s = .next s) ∧
    (tb.master = true → (s.timeNs ≤ ns → Does (.ppsEdge ns) s fun t => t.timeNs = ns ∧ t.dev.tb.slewTo = none ∧
        t.mem = s.mem ∧ t.cores = s.cores) ∧
      (ns < s.timeNs → Does (.ppsEdge ns) s fun t => time t slewed))

/-! ### Readiness, the loss of a die, retirement and reset (R17, R18, R64, R338, R351, R376, R414 to R416, R423 to R427) -/

/-- R18, R64, R338, R351, R376, R414 to R416, R422 to R427: the readiness bits rise; a core becomes ready with CYCLE 0 and its slabs,
sidecars and spill stores zero; at 115 °C the clock falls by a step, at 122 °C no task is placed, at 125 °C the die is
lost; a die-level event with a ready understudy fails over to it, which then adopts the queues; a retiring core whose
contexts are FREE enters the wings, and a task still there after 100 ms enters FAILED. That placement stops for as long as the reading
is 122 °C or more, and by how much a step lowers the clock and the supply, is the model's reading (log 26). A die whose supply is
absent does not become ready (R350). That a confirmed commit of a task that is taken off stands is the model's reading (log 23);
that an event which is not enabled leaves the state as it was is the model's choice (log 1).
Completes: thermalReading, dieLevelEvent, failoverAdoption, channelReady, dieReady, coreReady, commandReady, retireTimeout,
coreEnterWings, timedOutputUnitStart. -/
def Obligations.ReadinessAndLoss : Prop :=
  ∀ (s : State) (ch : BitVec 5) (d : Bool) (c : CoreId) (deg : Byte) (cause : DieCause),
    let die := s.dieAt d
    let ready (t : State) (bit : Nat) : Prop := t = s.modDev fun v => { v with funcReady := s.dev.funcReady ||| ((1 : Word) <<< bit) }
    (24 ≤ ch.toNat → exec (.channelReady ch) s = .next s) ∧
    (ch.toNat < 24 → Does (.channelReady ch) s fun t =>
      t.dev.funcReady = s.dev.funcReady ||| ((1 : Word) <<< ch.toNat) ∧
      t.dev.memGib = (if s.dev.memGib = 0 ∧ t.dev.funcReady.extractLsb' 0 24 = BitVec.allOnes 24 then s.dev.boardGib
        else s.dev.memGib) ∧ { t with dev := s.dev } = s) ∧
    (s.dieFitted d = true → die.failed = false → die.supplied = true → Does (.dieReady d) s fun t => ready t (24 + boolNat d)) ∧
    (s.dieFitted d = false ∨ die.failed = true ∨ die.supplied = false → exec (.dieReady d) s = .next s) ∧
    (Does .commandReady s fun t => ready t 31) ∧ (Does .timedOutputUnitStart s fun t => ready t 32) ∧
    (s.dieReady (dieOf c) = true → (s.logicalOf c).isSome = true → (s.coreAt c).wings = false → (s.coreAt c).ready = false →
      Does (.coreReady c) s fun t => (t.coreAt c).ready = true ∧ (t.coreAt c).cycle = 0 ∧ (t.coreAt c).df = [] ∧
        (t.coreAt c).side = [] ∧ (∀ x, (t.ctxAt c x).spill = [] ∧ (t.ctxAt c x).r = (s.ctxAt c x).r) ∧
        (∀ k, k ≠ c → t.coreAt k = s.coreAt k) ∧ { t with cores := s.cores } = s) ∧
    (s.dieReady (dieOf c) = false ∨ (s.coreAt c).wings = true ∨ (s.coreAt c).ready = true →
      exec (.coreReady c) s = .next s) ∧
    (deg.toInt < 125 → Does (.thermalReading d deg) s fun t =>
      (t.dieAt d).celsius = deg ∧ (t.dieAt d).stopPlacing = decide (122 ≤ deg.toInt) ∧
      (deg.toInt < 115 → (t.dieAt d).clockMhz = die.clockMhz ∧ (t.dieAt d).vddMv = die.vddMv) ∧
      (115 ≤ deg.toInt → 1400 ≤ (t.dieAt d).clockMhz ∧ (1400 < die.clockMhz → (t.dieAt d).clockMhz < die.clockMhz)) ∧
      (115 ≤ deg.toInt → s.anyTimed d = true → (t.dieAt d).vddMv = max die.vddMv 550) ∧
      (s.anyTimed d = false → 500 ≤ die.vddMv → 500 ≤ (t.dieAt d).vddMv ∧ (t.dieAt d).vddMv ≤ die.vddMv) ∧ t.mem = s.mem ∧ t.cores = s.cores) ∧
    (125 ≤ deg.toInt → s.dieFitted d = true → s.dieReady d = true → Does (.thermalReading d deg) s fun t =>
      (t.dieAt d).failed = true ∧ t.dieReady d = false) ∧
    (s.dieFitted d = false ∨ s.dieReady d = false →
      (cause ≠ .supply → exec (.dieLevelEvent d cause) s = .next s) ∧
      exec (.dieLevelEvent d .supply) s = .next (s.modDie d fun v => { v with supplied := false })) ∧
    (s.dieFitted d = true → s.dieReady d = true → s.hasFailover = true ∨ cause ≠ .retirements →
      Does (.dieLevelEvent d cause) s fun t => (t.dieAt d).failed = true ∧ t.dieReady d = false ∧
        (∀ k, dieOf k = d → (t.coreAt k).ready = false ∧ ∀ x, (t.ctxAt k x).occ = .free) ∧
        (t.dieAt d).queues = die.queues ∧
        (s.hasFailover = true → s.dieReady (!d) = true → die.failAllow = true →
          (t.dieAt d).stopped = die.stopped ∧ t.dieReady (!d) = true) ∧
        (s.hasFailover = false ∨ s.dieReady (!d) = false ∨ die.failAllow = false → (t.dieAt d).stopped = true ∧
          ∀ k ∈ s.tasks, s.servedBy k.qdie = d → t.taskAt k.id = none)) ∧
    (die.failed = true → die.stopped = false → die.adopted = false → s.dieReady (!d) = true →
      Does (.failoverAdoption d) s fun t => (t.dieAt d).adopted = true ∧ t.servedBy d = !d ∧ t.mem = s.mem ∧
        t.cores = s.cores ∧ (s.log.entries.length < 48 → ∃ e ∈ t.log.entries, e.src = 0x24 ∧ e.sev = 3)) ∧
    (∀ r, (s.coreAt c).retiring = some r →
      (s.timeNs < r.startNs + 100000000 → exec (.retireTimeout c) s = .next s) ∧
      (r.startNs + 100000000 ≤ s.timeNs → Does (.retireTimeout c) s fun t =>
        ((∀ x, (s.ctxAt c x).cm.phase ≠ .merge ∧ (s.ctxAt c x).cm.phase ≠ .ordered) → t.mem = s.mem) ∧ ∀ x id, (s.ctxAt c x).task = some id → (t.ctxAt c x).occ = .free ∧ t.taskAt id = none) ∧
      ((∃ x, (s.ctxAt c x).occ ≠ .free) → exec (.coreEnterWings c) s = .next s) ∧
      ((∀ x, (s.ctxAt c x).occ = .free) → Does (.coreEnterWings c) s fun t =>
        (t.coreAt c).wings = true ∧ (t.coreAt c).ready = false ∧ (t.coreAt c).retiring = none ∧ (t.coreAt c).rclass = .opn ∧
        t.log.retired = satInc s.log.retired ∧
        (∀ l, s.logicalOf c = some l → t.physicalOf (dieOf c) (BitVec.ofNat 6 l) = none) ∧
        (∀ j ∈ s.dev.started, j.job = .wings c → j.cmd.ring.toNat ∈ t.dev.msix)))

/-! ### Reset, memory and steps -/

/-- The reset values that the spec states, of every variant: R75 (DF_PARTc), R76, R382 (trap registers), R417 and R420 (scan), R337, R338, R371, R390
and R428 (registers of the stage die), R295 (the home holds every token), R31, R33, R313 (no future, cast or active queue),
R64 (slabs and sidecars zero), R58, R59, R55, R57, R71 (context registers), R18 to R20 (capability registers). That State.reset is an
HX940 is the model's choice (log 2), and so is the memory reservation class OPEN of every core (log 5).
R17, R20, R345: a reset leaves every core, context, die, task and queue, the tokens, the futures, casts and images and the error
log as State.reset has them for the part; the fused security version, the fused keys and the host's memory stay. What else stays
is the model's choice (log 1, log 16).
Completes: deviceReset. -/
def Obligations.Resets : Prop :=
  (State.reset = State.resetOf .hx940 ∧
   ∀ (v : Variant) (s : State), s = State.resetOf v →
     (∀ c, (s.coreAt c).ready = false ∧ (s.coreAt c).df = [] ∧ (s.coreAt c).side = [] ∧ (s.coreAt c).scanCtl = 0x10000 ∧
       (s.coreAt c).scanSigx = 0 ∧ (s.coreAt c).scanSigm = 0 ∧ (s.coreAt c).scanStat = 3 ∧ (s.coreAt c).scanStart = 0 ∧
       (s.coreAt c).brkskip = 0 ∧ (s.coreAt c).rclass = .opn ∧
       ∀ x : CtxId, (s.coreAt c).partBase x = 4 * x.toNat * 32 ∧ (s.coreAt c).partSlabs x = 4 * 32 ∧
         (s.coreAt c).saveBase[x.toNat]'x.isLt = 0 ∧ (s.ctxAt c x).occ = .free ∧ (s.ctxAt c x).spill = [] ∧
         (s.ctxAt c x).vshape = 0x00702010 ∧ (s.ctxAt c x).vwin = 0 ∧ (s.ctxAt c x).uivec = 0 ∧ (s.ctxAt c x).uiepc = 0 ∧
         (s.ctxAt c x).uicause = 0 ∧ (s.ctxAt c x).td = Vector.replicate 16 0 ∧
         (s.ctxAt c x).tr = ⟨0, 0, 0, 0, 0, 0, Vector.replicate 8 0, Vector.replicate 2 0⟩ ∧
         (∀ j, (s.ctxAt c x).r.getIx j = 0x0001000000200000) ∧ (s.ctxAt c x).r.fflags = 0 ∧ (s.ctxAt c x).r.ferec = 0) ∧
     (∀ d : Bool, (s.dieAt d).policy = ⟨3600, 0, 3, 16⟩ ∧ s.dieReady d = false ∧
       ∀ q, (s.queueAt d q).active = false) ∧
     s.windowReg 0 = (match v with
       | .hx940 => 0x400101FE03
       | .hx930 => 0x300101FD83
       | .hx920 => 0x2001000D01) ∧
     s.windowReg 8 = 0x01010101 ∧ s.windowReg 0x10 = BitVec.ofNat 64 (24 + 2 ^ 16 * 32 + 2 ^ 24 * 16 + 2 ^ 32 * 12 + 2 ^ 40 * 6) ∧
     s.windowReg 0x18 = BitVec.ofNat 64 (4 + 2 ^ 4 * 1700 + 2 ^ 16 * 16 + 2 ^ 24 * 96 + 2 ^ 32 * 512) ∧
     s.dev.funcReady = 0 ∧ s.coreReadyMask false = 0 ∧ s.coreReadyMask true = 0 ∧ s.dev.memGib = 0 ∧
     (∀ n, s.ringRead n 0 = 0 ∧ s.ringRead n 1 = 0 ∧ s.ringRead n 2 = 0 ∧ s.ringRead n 3 = 0 ∧ s.bpRead n = 0) ∧
     s.dev.toLate = 0 ∧ s.dev.toDrop = 0 ∧ s.dev.toLevel = 0 ∧ s.dev.toEnable = 0 ∧ s.dev.temp = 0 ∧ s.dev.finj = 0 ∧
     s.log.ctl = 0x101 ∧ s.log.entries = [] ∧ s.log.ce = 0 ∧ s.log.ue = 0 ∧ s.log.esc = 0 ∧ s.log.retired = 0 ∧ s.log.coreSel = 0 ∧
     (∀ line, (s.lineAt line).home = ⟨256, true, false, true⟩ ∧ (s.lineAt line).l1d = [] ∧ (s.lineAt line).slices = [] ∧
       (s.lineAt line).rats = [] ∧ (s.lineAt line).st = .idle) ∧
     s.coh.poison = [] ∧ s.fut.ents = [] ∧ s.casts.ents = [] ∧ s.tasks = [] ∧ s.images = [] ∧ (∀ i, s.descOf i = 0) ∧
     Memory.wf s.mem = true) ∧
  (∀ s : State, Does .deviceReset s fun t =>
     let r := State.resetOf s.variant
     t.variant = s.variant ∧ t.cores = r.cores ∧ t.dies = r.dies ∧ t.coh = Coh.reset ∧ t.fut = FutTab.reset ∧
     t.casts = CastTab.reset ∧ t.tasks = [] ∧ t.images = [] ∧ t.log = ErrLog.reset ∧ t.dev.funcReady = 0 ∧
     t.dev.fused = s.dev.fused ∧ { t.dev with fused := 0, boardGib := r.dev.boardGib, keys := r.dev.keys } = r.dev ∧
     (∀ i : Fin 8, t.dev.keys[i.val] = if i.val < 4 then s.dev.keys[i.val] else .absent) ∧
     (∀ a, t.byteAt a = if 0x800000000000 ≤ a then s.byteAt a else 0))

/-- R257, R4: memory is one map from addresses to bytes: a write of bytes is read back, in little-endian order, a write leaves every other byte as
it was, and the map keeps its canonical form; merging a region's gated bytes leaves at each key the latest of its stores. The canonical form is the
model's choice (log 7). -/
def Obligations.MemoryLaws : Prop :=
  ∀ (m : List Host.Cell) (a n v : Nat) (b : Byte) (bs : List Byte) (g : List GateByte), Memory.wf m = true →
    Memory.wf (cellSet m a b) = true ∧ Memory.wf (cellWrite m a bs) = true ∧ Memory.wf (mergeGate m g) = true ∧
    (∀ k, cellGet (cellSet m a b) k = if k = a then b else cellGet m k) ∧
    (∀ k, cellGet (cellWrite m a bs) k = if a ≤ k ∧ k < a + bs.length then bs.getD (k - a) 0 else cellGet m k) ∧
    cellNat (cellWrite m a (leBytes n v)) a n = v % 2 ^ (8 * n) ∧
    (∀ k, k < 2 ^ 64 → cellGet (mergeGate m g) k = (gateFinal g k).getD (cellGet m k)) ∧
    (∀ m', Memory.wf m' = true → (∀ k, cellGet m k = cellGet m' k) → m = m')

/-- R376: a step of a device that an uncorrected error of a shared stage-die table has stopped is a fault; every other state has a
next one: no instruction, event or input is refused. That every input may arrive at every state, and does nothing where
it is not enabled, is the model's choice (log 1). -/
def Obligations.StepAnswers : Prop :=
  ∀ s : State, (s.dev.sharedStop = true → step s = .fault .deviceStopped) ∧
    (s.dev.sharedStop = false → ∃ t, step s = .next t) ∧ ∀ i, ∃ t, exec i s = .next t

/-- R257: every step keeps memory in its canonical form, from every state that has it there, and no step changes which part it
is (R2). The canonical form is the model's choice (log 7). -/
def Obligations.StepKeepsMemory : Prop :=
  ∀ s t : State, Memory.wf s.mem = true → step s = .next t → Memory.wf t.mem = true ∧ t.variant = s.variant

end Statements
end

