-- ==== Sys2Proof/Laws/Memory.lean ====
section
/-! SUPPORT. Laws/Memory.lean: every operation on byte maps keeps their canonical form, what a read gives after a write,
and the maps of reset. -/

namespace Sys2Proof.Machine

/-! ### The canonical form -/

theorem cellsAbove_mono {lo lo' : Nat} {m : List Host.Cell} (h : lo' ≤ lo) (hm : cellsAbove lo m = true) :
    cellsAbove lo' m = true := by
  cases m with
  | nil => rfl
  | cons e rest => simp only [cellsAbove, Bool.and_eq_true, decide_eq_true_eq] at hm ⊢; exact ⟨⟨by omega, hm.1.2⟩, hm.2⟩

theorem wf_of_above {lo : Nat} {m : List Host.Cell} (h : cellsAbove lo m = true) : Memory.wf m = true := by
  cases m with
  | nil => rfl
  | cons e rest => simp only [cellsAbove, Memory.wf, Bool.and_eq_true] at h ⊢; exact ⟨h.1.2, h.2⟩

theorem wf_tail {e : Host.Cell} {m : List Host.Cell} (h : Memory.wf (e :: m) = true) : cellsAbove e.1 m = true := by
  simp only [Memory.wf, Bool.and_eq_true] at h; exact h.2

theorem above_cellSet {lo a : Nat} {m : List Host.Cell} {v : Byte} (ha : lo < a) (h : cellsAbove lo m = true) :
    cellsAbove lo (cellSet m a v) = true := by
  induction m generalizing lo with
  | nil =>
    unfold cellSet
    split
    · rfl
    · rename_i hv
      simp only [cellsAbove, Bool.and_eq_true, decide_eq_true_eq]
      exact ⟨⟨ha, by simpa using hv⟩, trivial⟩
  | cons e rest ih =>
    simp only [cellsAbove, Bool.and_eq_true, decide_eq_true_eq] at h
    obtain ⟨⟨h1, h2⟩, h3⟩ := h
    unfold cellSet
    split
    · rename_i hk
      simp only [cellsAbove, Bool.and_eq_true, decide_eq_true_eq]
      exact ⟨⟨h1, h2⟩, ih hk h3⟩
    · split
      · rename_i hk
        split
        · exact cellsAbove_mono (by omega) h3
        · rename_i hv
          simp only [cellsAbove, Bool.and_eq_true, decide_eq_true_eq]
          exact ⟨⟨ha, by simpa using hv⟩, hk ▸ h3⟩
      · rename_i hk hk'
        split
        · simp only [cellsAbove, Bool.and_eq_true, decide_eq_true_eq]; exact ⟨⟨h1, h2⟩, h3⟩
        · rename_i hv
          simp only [cellsAbove, Bool.and_eq_true, decide_eq_true_eq]
          exact ⟨⟨ha, by simpa using hv⟩, ⟨by omega, h2⟩, h3⟩

theorem wf_cellSet {a : Nat} {m : List Host.Cell} {v : Byte} (h : Memory.wf m = true) : Memory.wf (cellSet m a v) = true := by
  cases m with
  | nil =>
    unfold cellSet
    split
    · rfl
    · rename_i hv
      simp only [Memory.wf, cellsAbove, Bool.and_eq_true]
      exact ⟨by simpa using hv, trivial⟩
  | cons e rest =>
    have h3 := wf_tail h
    have h2 : (e.2 != 0) = true := by simp only [Memory.wf, Bool.and_eq_true] at h; exact h.1
    unfold cellSet
    split
    · rename_i hk
      simp only [Memory.wf, Bool.and_eq_true]; exact ⟨h2, above_cellSet hk h3⟩
    · split
      · rename_i hk
        split
        · exact wf_of_above h3
        · rename_i hv
          simp only [Memory.wf, Bool.and_eq_true]; exact ⟨by simpa using hv, hk ▸ h3⟩
      · rename_i hk hk'
        split
        · exact h
        · rename_i hv
          simp only [Memory.wf, cellsAbove, Bool.and_eq_true, decide_eq_true_eq]
          exact ⟨by simpa using hv, ⟨by omega, h2⟩, h3⟩

theorem wf_cellWrite {bs : List Byte} {a : Nat} {m : List Host.Cell} (h : Memory.wf m = true) :
    Memory.wf (cellWrite m a bs) = true := by
  induction bs generalizing a m with
  | nil => exact h
  | cons b rest ih => exact ih (wf_cellSet h)

theorem wf_cellPuts {cs m : List Host.Cell} (h : Memory.wf m = true) : Memory.wf (cellPuts m cs) = true := by
  unfold cellPuts
  induction cs generalizing m with
  | nil => exact h
  | cons c rest ih => exact ih (wf_cellSet h)

theorem above_filter {p : Host.Cell → Bool} {lo : Nat} {m : List Host.Cell} (h : cellsAbove lo m = true) :
    cellsAbove lo (m.filter p) = true := by
  induction m generalizing lo with
  | nil => rfl
  | cons e rest ih =>
    simp only [cellsAbove, Bool.and_eq_true, decide_eq_true_eq] at h
    by_cases hp : p e = true
    · simp only [List.filter_cons_of_pos hp, cellsAbove, Bool.and_eq_true, decide_eq_true_eq]
      exact ⟨h.1, ih h.2⟩
    · rw [List.filter_cons_of_neg hp]
      exact ih (cellsAbove_mono (by omega) h.2)

theorem wf_filter {p : Host.Cell → Bool} {m : List Host.Cell} (h : Memory.wf m = true) :
    Memory.wf (m.filter p) = true := by
  cases m with
  | nil => rfl
  | cons e rest =>
    by_cases hp : p e = true
    · simp only [List.filter_cons_of_pos hp, Memory.wf, Bool.and_eq_true] at h ⊢
      exact ⟨h.1, above_filter h.2⟩
    · rw [List.filter_cons_of_neg hp]; exact wf_of_above (above_filter (wf_tail h))

theorem wf_cellClear {p : Nat → Bool} {m : List Host.Cell} (h : Memory.wf m = true) : Memory.wf (cellClear m p) = true :=
  wf_filter h

theorem wf_cellFresh {m : List Host.Cell} {a n : Nat} {bs : List Byte} (h : Memory.wf m = true) :
    Memory.wf (cellFresh m a n bs) = true := wf_cellWrite (wf_cellClear h)

theorem wf_foldl {α : Type} {f : List Host.Cell → α → List Host.Cell} {l : List α} {m : List Host.Cell}
    (hf : ∀ m a, Memory.wf m = true → Memory.wf (f m a) = true) (h : Memory.wf m = true) :
    Memory.wf (l.foldl f m) = true := by
  induction l generalizing m with
  | nil => exact h
  | cons a rest ih => exact ih (hf m a h)

theorem wf_mergeGate {m : List Host.Cell} {g : List GateByte} (h : Memory.wf m = true) :
    Memory.wf (mergeGate m g) = true := by
  refine wf_foldl (fun m k hm => ?_) h
  split
  · exact wf_cellSet hm
  · exact hm

theorem wf_mergeLine {m : List Host.Cell} {line : Nat} {mask : BitVec 64} {data : BitVec 512} (h : Memory.wf m = true) :
    Memory.wf (mergeLine m line mask data) = true := by
  refine wf_foldl (fun m k hm => ?_) h
  split
  · exact wf_cellSet hm
  · exact hm

theorem above_cellDrop {m : List Host.Cell} {lo a : Nat} (h : cellsAbove lo m = true) : cellsAbove lo (cellDrop m a) = true := by
  induction m generalizing lo with
  | nil => rfl
  | cons e rest ih =>
    unfold cellDrop
    split
    · simp only [cellsAbove, Bool.and_eq_true, decide_eq_true_eq] at h
      exact ih (cellsAbove_mono (by omega) h.2)
    · exact h

theorem wf_cellDrop {m : List Host.Cell} {a : Nat} (h : Memory.wf m = true) : Memory.wf (cellDrop m a) = true := by
  cases m with
  | nil => rfl
  | cons e rest =>
    unfold cellDrop
    split
    · exact wf_of_above (above_cellDrop (wf_tail h))
    · exact h

/-! ### Reading after writing -/

theorem cellGet_above {lo a : Nat} {m : List Host.Cell} (h : cellsAbove lo m = true) (ha : a ≤ lo) : cellGet m a = 0 := by
  induction m generalizing lo with
  | nil => rfl
  | cons e rest ih =>
    simp only [cellsAbove, Bool.and_eq_true, decide_eq_true_eq] at h
    unfold cellGet
    rw [if_neg (by omega)]
    exact ih h.2 (by omega)

theorem cellGet_cellSet {m : List Host.Cell} {a k : Nat} {v : Byte} (h : Memory.wf m = true) :
    cellGet (cellSet m a v) k = if k = a then v else cellGet m k := by
  induction m with
  | nil =>
    unfold cellSet
    split
    · rename_i hv
      by_cases hk : k = a
      · rw [if_pos hk, hv]; rfl
      · rw [if_neg hk]
    · by_cases hk : k = a
      · rw [if_pos hk, cellGet, if_pos hk.symm]
      · rw [if_neg hk]
        show (if a = k then v else cellGet [] k) = 0
        rw [if_neg (by omega)]; rfl
  | cons e rest ih =>
    have h3 := wf_tail h
    unfold cellSet
    split
    · rename_i hlt
      rw [cellGet, ih (wf_of_above h3), cellGet]
      by_cases hk : e.1 = k
      · rw [if_pos hk, if_neg (by omega), if_pos hk]
      · rw [if_neg hk, if_neg hk]
    · split
      · rename_i _ he
        by_cases hka : k = a
        · rw [if_pos hka]
          split
          · rename_i hv; rw [hv, cellGet_above h3 (by omega)]
          · rw [cellGet, if_pos hka.symm]
        · rw [if_neg hka, cellGet, if_neg (show ¬ e.1 = k by omega)]
          split
          · rfl
          · rw [cellGet, if_neg (by omega)]
      · rename_i hlt hne
        by_cases hka : k = a
        · rw [if_pos hka]
          split
          · rename_i hv
            rw [hv, cellGet, if_neg (by omega)]
            exact cellGet_above h3 (by omega)
          · rw [cellGet, if_pos hka.symm]
        · rw [if_neg hka]
          split
          · rfl
          · rw [cellGet, if_neg (by omega)]

theorem cellGet_cellWrite {bs : List Byte} {m : List Host.Cell} {a k : Nat} (h : Memory.wf m = true) :
    cellGet (cellWrite m a bs) k = if a ≤ k ∧ k < a + bs.length then bs.getD (k - a) 0 else cellGet m k := by
  induction bs generalizing m a with
  | nil => rw [if_neg (by simp only [List.length_nil]; omega)]; rfl
  | cons b rest ih =>
    rw [cellWrite, ih (wf_cellSet h), cellGet_cellSet h]
    simp only [List.length_cons]
    by_cases hk : k = a
    · subst hk; rw [if_neg (by omega), if_pos rfl, if_pos (by omega)]; simp
    · by_cases h1 : a + 1 ≤ k ∧ k < a + 1 + rest.length
      · rw [if_pos h1, if_pos (by omega), show k - a = (k - (a + 1)) + 1 by omega, List.getD_cons_succ]
      · rw [if_neg h1, if_neg hk, if_neg (by omega)]

/-! ### Reset -/

/-- Every byte map of the machine is in its canonical form at reset. -/
theorem reset_wf (v : Variant) : Memory.wf (State.resetOf v).mem = true := by cases v <;> rfl

end Sys2Proof.Machine
end

