-- ==== Sys2Proof/Laws/State.lean ====
section
/-! SUPPORT. Laws/State.lean: the small lemmas of State and its updates: what each leaves as it was, and reading back
what it wrote. -/

namespace Sys2Proof.Machine

/-! ### setCore -/

@[simp] theorem State.setCore_variant (s : State) (c : CoreId) (k : Core) : (s.setCore c k).variant = s.variant := rfl
@[simp] theorem State.setCore_dies (s : State) (c : CoreId) (k : Core) : (s.setCore c k).dies = s.dies := rfl
@[simp] theorem State.setCore_mem (s : State) (c : CoreId) (k : Core) : (s.setCore c k).mem = s.mem := rfl
@[simp] theorem State.setCore_coh (s : State) (c : CoreId) (k : Core) : (s.setCore c k).coh = s.coh := rfl
@[simp] theorem State.setCore_fut (s : State) (c : CoreId) (k : Core) : (s.setCore c k).fut = s.fut := rfl
@[simp] theorem State.setCore_casts (s : State) (c : CoreId) (k : Core) : (s.setCore c k).casts = s.casts := rfl
@[simp] theorem State.setCore_tasks (s : State) (c : CoreId) (k : Core) : (s.setCore c k).tasks = s.tasks := rfl
@[simp] theorem State.setCore_nextTask (s : State) (c : CoreId) (k : Core) : (s.setCore c k).nextTask = s.nextTask := rfl
@[simp] theorem State.setCore_ages (s : State) (c : CoreId) (k : Core) : (s.setCore c k).ages = s.ages := rfl
@[simp] theorem State.setCore_ended (s : State) (c : CoreId) (k : Core) : (s.setCore c k).ended = s.ended := rfl
@[simp] theorem State.setCore_images (s : State) (c : CoreId) (k : Core) : (s.setCore c k).images = s.images := rfl
@[simp] theorem State.setCore_log (s : State) (c : CoreId) (k : Core) : (s.setCore c k).log = s.log := rfl
@[simp] theorem State.setCore_dev (s : State) (c : CoreId) (k : Core) : (s.setCore c k).dev = s.dev := rfl
@[simp] theorem State.setCore_cur (s : State) (c : CoreId) (k : Core) : (s.setCore c k).cur = s.cur := rfl
@[simp] theorem State.setCore_focus (s : State) (c : CoreId) (k : Core) : (s.setCore c k).focus = s.focus := rfl
@[simp] theorem State.setCore_agenda (s : State) (c : CoreId) (k : Core) : (s.setCore c k).agenda = s.agenda := rfl
@[simp] theorem State.setCore_free (s : State) (c : CoreId) (k : Core) : (s.setCore c k).free = s.free := rfl

/-! ### modCore -/

@[simp] theorem State.modCore_variant (s : State) (c : CoreId) (f : Core → Core) : (s.modCore c f).variant = s.variant := rfl
@[simp] theorem State.modCore_dies (s : State) (c : CoreId) (f : Core → Core) : (s.modCore c f).dies = s.dies := rfl
@[simp] theorem State.modCore_mem (s : State) (c : CoreId) (f : Core → Core) : (s.modCore c f).mem = s.mem := rfl
@[simp] theorem State.modCore_coh (s : State) (c : CoreId) (f : Core → Core) : (s.modCore c f).coh = s.coh := rfl
@[simp] theorem State.modCore_fut (s : State) (c : CoreId) (f : Core → Core) : (s.modCore c f).fut = s.fut := rfl
@[simp] theorem State.modCore_casts (s : State) (c : CoreId) (f : Core → Core) : (s.modCore c f).casts = s.casts := rfl
@[simp] theorem State.modCore_tasks (s : State) (c : CoreId) (f : Core → Core) : (s.modCore c f).tasks = s.tasks := rfl
@[simp] theorem State.modCore_nextTask (s : State) (c : CoreId) (f : Core → Core) : (s.modCore c f).nextTask = s.nextTask := rfl
@[simp] theorem State.modCore_ages (s : State) (c : CoreId) (f : Core → Core) : (s.modCore c f).ages = s.ages := rfl
@[simp] theorem State.modCore_ended (s : State) (c : CoreId) (f : Core → Core) : (s.modCore c f).ended = s.ended := rfl
@[simp] theorem State.modCore_images (s : State) (c : CoreId) (f : Core → Core) : (s.modCore c f).images = s.images := rfl
@[simp] theorem State.modCore_log (s : State) (c : CoreId) (f : Core → Core) : (s.modCore c f).log = s.log := rfl
@[simp] theorem State.modCore_dev (s : State) (c : CoreId) (f : Core → Core) : (s.modCore c f).dev = s.dev := rfl
@[simp] theorem State.modCore_cur (s : State) (c : CoreId) (f : Core → Core) : (s.modCore c f).cur = s.cur := rfl
@[simp] theorem State.modCore_focus (s : State) (c : CoreId) (f : Core → Core) : (s.modCore c f).focus = s.focus := rfl
@[simp] theorem State.modCore_agenda (s : State) (c : CoreId) (f : Core → Core) : (s.modCore c f).agenda = s.agenda := rfl
@[simp] theorem State.modCore_free (s : State) (c : CoreId) (f : Core → Core) : (s.modCore c f).free = s.free := rfl

/-! ### setCtx -/

@[simp] theorem State.setCtx_variant (s : State) (c : CoreId) (x : CtxId) (v : Ctx) : (s.setCtx c x v).variant = s.variant := rfl
@[simp] theorem State.setCtx_dies (s : State) (c : CoreId) (x : CtxId) (v : Ctx) : (s.setCtx c x v).dies = s.dies := rfl
@[simp] theorem State.setCtx_mem (s : State) (c : CoreId) (x : CtxId) (v : Ctx) : (s.setCtx c x v).mem = s.mem := rfl
@[simp] theorem State.setCtx_coh (s : State) (c : CoreId) (x : CtxId) (v : Ctx) : (s.setCtx c x v).coh = s.coh := rfl
@[simp] theorem State.setCtx_fut (s : State) (c : CoreId) (x : CtxId) (v : Ctx) : (s.setCtx c x v).fut = s.fut := rfl
@[simp] theorem State.setCtx_casts (s : State) (c : CoreId) (x : CtxId) (v : Ctx) : (s.setCtx c x v).casts = s.casts := rfl
@[simp] theorem State.setCtx_tasks (s : State) (c : CoreId) (x : CtxId) (v : Ctx) : (s.setCtx c x v).tasks = s.tasks := rfl
@[simp] theorem State.setCtx_nextTask (s : State) (c : CoreId) (x : CtxId) (v : Ctx) : (s.setCtx c x v).nextTask = s.nextTask := rfl
@[simp] theorem State.setCtx_ages (s : State) (c : CoreId) (x : CtxId) (v : Ctx) : (s.setCtx c x v).ages = s.ages := rfl
@[simp] theorem State.setCtx_ended (s : State) (c : CoreId) (x : CtxId) (v : Ctx) : (s.setCtx c x v).ended = s.ended := rfl
@[simp] theorem State.setCtx_images (s : State) (c : CoreId) (x : CtxId) (v : Ctx) : (s.setCtx c x v).images = s.images := rfl
@[simp] theorem State.setCtx_log (s : State) (c : CoreId) (x : CtxId) (v : Ctx) : (s.setCtx c x v).log = s.log := rfl
@[simp] theorem State.setCtx_dev (s : State) (c : CoreId) (x : CtxId) (v : Ctx) : (s.setCtx c x v).dev = s.dev := rfl
@[simp] theorem State.setCtx_cur (s : State) (c : CoreId) (x : CtxId) (v : Ctx) : (s.setCtx c x v).cur = s.cur := rfl
@[simp] theorem State.setCtx_focus (s : State) (c : CoreId) (x : CtxId) (v : Ctx) : (s.setCtx c x v).focus = s.focus := rfl
@[simp] theorem State.setCtx_agenda (s : State) (c : CoreId) (x : CtxId) (v : Ctx) : (s.setCtx c x v).agenda = s.agenda := rfl
@[simp] theorem State.setCtx_free (s : State) (c : CoreId) (x : CtxId) (v : Ctx) : (s.setCtx c x v).free = s.free := rfl

/-! ### modCtx -/

@[simp] theorem State.modCtx_variant (s : State) (c : CoreId) (x : CtxId) (f : Ctx → Ctx) : (s.modCtx c x f).variant = s.variant := rfl
@[simp] theorem State.modCtx_dies (s : State) (c : CoreId) (x : CtxId) (f : Ctx → Ctx) : (s.modCtx c x f).dies = s.dies := rfl
@[simp] theorem State.modCtx_mem (s : State) (c : CoreId) (x : CtxId) (f : Ctx → Ctx) : (s.modCtx c x f).mem = s.mem := rfl
@[simp] theorem State.modCtx_coh (s : State) (c : CoreId) (x : CtxId) (f : Ctx → Ctx) : (s.modCtx c x f).coh = s.coh := rfl
@[simp] theorem State.modCtx_fut (s : State) (c : CoreId) (x : CtxId) (f : Ctx → Ctx) : (s.modCtx c x f).fut = s.fut := rfl
@[simp] theorem State.modCtx_casts (s : State) (c : CoreId) (x : CtxId) (f : Ctx → Ctx) : (s.modCtx c x f).casts = s.casts := rfl
@[simp] theorem State.modCtx_tasks (s : State) (c : CoreId) (x : CtxId) (f : Ctx → Ctx) : (s.modCtx c x f).tasks = s.tasks := rfl
@[simp] theorem State.modCtx_nextTask (s : State) (c : CoreId) (x : CtxId) (f : Ctx → Ctx) : (s.modCtx c x f).nextTask = s.nextTask := rfl
@[simp] theorem State.modCtx_ages (s : State) (c : CoreId) (x : CtxId) (f : Ctx → Ctx) : (s.modCtx c x f).ages = s.ages := rfl
@[simp] theorem State.modCtx_ended (s : State) (c : CoreId) (x : CtxId) (f : Ctx → Ctx) : (s.modCtx c x f).ended = s.ended := rfl
@[simp] theorem State.modCtx_images (s : State) (c : CoreId) (x : CtxId) (f : Ctx → Ctx) : (s.modCtx c x f).images = s.images := rfl
@[simp] theorem State.modCtx_log (s : State) (c : CoreId) (x : CtxId) (f : Ctx → Ctx) : (s.modCtx c x f).log = s.log := rfl
@[simp] theorem State.modCtx_dev (s : State) (c : CoreId) (x : CtxId) (f : Ctx → Ctx) : (s.modCtx c x f).dev = s.dev := rfl
@[simp] theorem State.modCtx_cur (s : State) (c : CoreId) (x : CtxId) (f : Ctx → Ctx) : (s.modCtx c x f).cur = s.cur := rfl
@[simp] theorem State.modCtx_focus (s : State) (c : CoreId) (x : CtxId) (f : Ctx → Ctx) : (s.modCtx c x f).focus = s.focus := rfl
@[simp] theorem State.modCtx_agenda (s : State) (c : CoreId) (x : CtxId) (f : Ctx → Ctx) : (s.modCtx c x f).agenda = s.agenda := rfl
@[simp] theorem State.modCtx_free (s : State) (c : CoreId) (x : CtxId) (f : Ctx → Ctx) : (s.modCtx c x f).free = s.free := rfl

/-! ### modMyCore -/

@[simp] theorem State.modMyCore_variant (s : State) (f : Core → Core) : (s.modMyCore f).variant = s.variant := rfl
@[simp] theorem State.modMyCore_dies (s : State) (f : Core → Core) : (s.modMyCore f).dies = s.dies := rfl
@[simp] theorem State.modMyCore_mem (s : State) (f : Core → Core) : (s.modMyCore f).mem = s.mem := rfl
@[simp] theorem State.modMyCore_coh (s : State) (f : Core → Core) : (s.modMyCore f).coh = s.coh := rfl
@[simp] theorem State.modMyCore_fut (s : State) (f : Core → Core) : (s.modMyCore f).fut = s.fut := rfl
@[simp] theorem State.modMyCore_casts (s : State) (f : Core → Core) : (s.modMyCore f).casts = s.casts := rfl
@[simp] theorem State.modMyCore_tasks (s : State) (f : Core → Core) : (s.modMyCore f).tasks = s.tasks := rfl
@[simp] theorem State.modMyCore_nextTask (s : State) (f : Core → Core) : (s.modMyCore f).nextTask = s.nextTask := rfl
@[simp] theorem State.modMyCore_ages (s : State) (f : Core → Core) : (s.modMyCore f).ages = s.ages := rfl
@[simp] theorem State.modMyCore_ended (s : State) (f : Core → Core) : (s.modMyCore f).ended = s.ended := rfl
@[simp] theorem State.modMyCore_images (s : State) (f : Core → Core) : (s.modMyCore f).images = s.images := rfl
@[simp] theorem State.modMyCore_log (s : State) (f : Core → Core) : (s.modMyCore f).log = s.log := rfl
@[simp] theorem State.modMyCore_dev (s : State) (f : Core → Core) : (s.modMyCore f).dev = s.dev := rfl
@[simp] theorem State.modMyCore_cur (s : State) (f : Core → Core) : (s.modMyCore f).cur = s.cur := rfl
@[simp] theorem State.modMyCore_focus (s : State) (f : Core → Core) : (s.modMyCore f).focus = s.focus := rfl
@[simp] theorem State.modMyCore_agenda (s : State) (f : Core → Core) : (s.modMyCore f).agenda = s.agenda := rfl
@[simp] theorem State.modMyCore_free (s : State) (f : Core → Core) : (s.modMyCore f).free = s.free := rfl

/-! ### setMe -/

@[simp] theorem State.setMe_variant (s : State) (v : Ctx) : (s.setMe v).variant = s.variant := rfl
@[simp] theorem State.setMe_dies (s : State) (v : Ctx) : (s.setMe v).dies = s.dies := rfl
@[simp] theorem State.setMe_mem (s : State) (v : Ctx) : (s.setMe v).mem = s.mem := rfl
@[simp] theorem State.setMe_coh (s : State) (v : Ctx) : (s.setMe v).coh = s.coh := rfl
@[simp] theorem State.setMe_fut (s : State) (v : Ctx) : (s.setMe v).fut = s.fut := rfl
@[simp] theorem State.setMe_casts (s : State) (v : Ctx) : (s.setMe v).casts = s.casts := rfl
@[simp] theorem State.setMe_tasks (s : State) (v : Ctx) : (s.setMe v).tasks = s.tasks := rfl
@[simp] theorem State.setMe_nextTask (s : State) (v : Ctx) : (s.setMe v).nextTask = s.nextTask := rfl
@[simp] theorem State.setMe_ages (s : State) (v : Ctx) : (s.setMe v).ages = s.ages := rfl
@[simp] theorem State.setMe_ended (s : State) (v : Ctx) : (s.setMe v).ended = s.ended := rfl
@[simp] theorem State.setMe_images (s : State) (v : Ctx) : (s.setMe v).images = s.images := rfl
@[simp] theorem State.setMe_log (s : State) (v : Ctx) : (s.setMe v).log = s.log := rfl
@[simp] theorem State.setMe_dev (s : State) (v : Ctx) : (s.setMe v).dev = s.dev := rfl
@[simp] theorem State.setMe_cur (s : State) (v : Ctx) : (s.setMe v).cur = s.cur := rfl
@[simp] theorem State.setMe_focus (s : State) (v : Ctx) : (s.setMe v).focus = s.focus := rfl
@[simp] theorem State.setMe_agenda (s : State) (v : Ctx) : (s.setMe v).agenda = s.agenda := rfl
@[simp] theorem State.setMe_free (s : State) (v : Ctx) : (s.setMe v).free = s.free := rfl

/-! ### modMe -/

@[simp] theorem State.modMe_variant (s : State) (f : Ctx → Ctx) : (s.modMe f).variant = s.variant := rfl
@[simp] theorem State.modMe_dies (s : State) (f : Ctx → Ctx) : (s.modMe f).dies = s.dies := rfl
@[simp] theorem State.modMe_mem (s : State) (f : Ctx → Ctx) : (s.modMe f).mem = s.mem := rfl
@[simp] theorem State.modMe_coh (s : State) (f : Ctx → Ctx) : (s.modMe f).coh = s.coh := rfl
@[simp] theorem State.modMe_fut (s : State) (f : Ctx → Ctx) : (s.modMe f).fut = s.fut := rfl
@[simp] theorem State.modMe_casts (s : State) (f : Ctx → Ctx) : (s.modMe f).casts = s.casts := rfl
@[simp] theorem State.modMe_tasks (s : State) (f : Ctx → Ctx) : (s.modMe f).tasks = s.tasks := rfl
@[simp] theorem State.modMe_nextTask (s : State) (f : Ctx → Ctx) : (s.modMe f).nextTask = s.nextTask := rfl
@[simp] theorem State.modMe_ages (s : State) (f : Ctx → Ctx) : (s.modMe f).ages = s.ages := rfl
@[simp] theorem State.modMe_ended (s : State) (f : Ctx → Ctx) : (s.modMe f).ended = s.ended := rfl
@[simp] theorem State.modMe_images (s : State) (f : Ctx → Ctx) : (s.modMe f).images = s.images := rfl
@[simp] theorem State.modMe_log (s : State) (f : Ctx → Ctx) : (s.modMe f).log = s.log := rfl
@[simp] theorem State.modMe_dev (s : State) (f : Ctx → Ctx) : (s.modMe f).dev = s.dev := rfl
@[simp] theorem State.modMe_cur (s : State) (f : Ctx → Ctx) : (s.modMe f).cur = s.cur := rfl
@[simp] theorem State.modMe_focus (s : State) (f : Ctx → Ctx) : (s.modMe f).focus = s.focus := rfl
@[simp] theorem State.modMe_agenda (s : State) (f : Ctx → Ctx) : (s.modMe f).agenda = s.agenda := rfl
@[simp] theorem State.modMe_free (s : State) (f : Ctx → Ctx) : (s.modMe f).free = s.free := rfl

/-! ### modRegs -/

@[simp] theorem State.modRegs_variant (s : State) (f : Regs → Regs) : (s.modRegs f).variant = s.variant := rfl
@[simp] theorem State.modRegs_dies (s : State) (f : Regs → Regs) : (s.modRegs f).dies = s.dies := rfl
@[simp] theorem State.modRegs_mem (s : State) (f : Regs → Regs) : (s.modRegs f).mem = s.mem := rfl
@[simp] theorem State.modRegs_coh (s : State) (f : Regs → Regs) : (s.modRegs f).coh = s.coh := rfl
@[simp] theorem State.modRegs_fut (s : State) (f : Regs → Regs) : (s.modRegs f).fut = s.fut := rfl
@[simp] theorem State.modRegs_casts (s : State) (f : Regs → Regs) : (s.modRegs f).casts = s.casts := rfl
@[simp] theorem State.modRegs_tasks (s : State) (f : Regs → Regs) : (s.modRegs f).tasks = s.tasks := rfl
@[simp] theorem State.modRegs_nextTask (s : State) (f : Regs → Regs) : (s.modRegs f).nextTask = s.nextTask := rfl
@[simp] theorem State.modRegs_ages (s : State) (f : Regs → Regs) : (s.modRegs f).ages = s.ages := rfl
@[simp] theorem State.modRegs_ended (s : State) (f : Regs → Regs) : (s.modRegs f).ended = s.ended := rfl
@[simp] theorem State.modRegs_images (s : State) (f : Regs → Regs) : (s.modRegs f).images = s.images := rfl
@[simp] theorem State.modRegs_log (s : State) (f : Regs → Regs) : (s.modRegs f).log = s.log := rfl
@[simp] theorem State.modRegs_dev (s : State) (f : Regs → Regs) : (s.modRegs f).dev = s.dev := rfl
@[simp] theorem State.modRegs_cur (s : State) (f : Regs → Regs) : (s.modRegs f).cur = s.cur := rfl
@[simp] theorem State.modRegs_focus (s : State) (f : Regs → Regs) : (s.modRegs f).focus = s.focus := rfl
@[simp] theorem State.modRegs_agenda (s : State) (f : Regs → Regs) : (s.modRegs f).agenda = s.agenda := rfl
@[simp] theorem State.modRegs_free (s : State) (f : Regs → Regs) : (s.modRegs f).free = s.free := rfl

/-! ### modCur -/

@[simp] theorem State.modCur_variant (s : State) (f : Cur → Cur) : (s.modCur f).variant = s.variant := rfl
@[simp] theorem State.modCur_cores (s : State) (f : Cur → Cur) : (s.modCur f).cores = s.cores := rfl
@[simp] theorem State.modCur_dies (s : State) (f : Cur → Cur) : (s.modCur f).dies = s.dies := rfl
@[simp] theorem State.modCur_mem (s : State) (f : Cur → Cur) : (s.modCur f).mem = s.mem := rfl
@[simp] theorem State.modCur_coh (s : State) (f : Cur → Cur) : (s.modCur f).coh = s.coh := rfl
@[simp] theorem State.modCur_fut (s : State) (f : Cur → Cur) : (s.modCur f).fut = s.fut := rfl
@[simp] theorem State.modCur_casts (s : State) (f : Cur → Cur) : (s.modCur f).casts = s.casts := rfl
@[simp] theorem State.modCur_tasks (s : State) (f : Cur → Cur) : (s.modCur f).tasks = s.tasks := rfl
@[simp] theorem State.modCur_nextTask (s : State) (f : Cur → Cur) : (s.modCur f).nextTask = s.nextTask := rfl
@[simp] theorem State.modCur_ages (s : State) (f : Cur → Cur) : (s.modCur f).ages = s.ages := rfl
@[simp] theorem State.modCur_ended (s : State) (f : Cur → Cur) : (s.modCur f).ended = s.ended := rfl
@[simp] theorem State.modCur_images (s : State) (f : Cur → Cur) : (s.modCur f).images = s.images := rfl
@[simp] theorem State.modCur_log (s : State) (f : Cur → Cur) : (s.modCur f).log = s.log := rfl
@[simp] theorem State.modCur_dev (s : State) (f : Cur → Cur) : (s.modCur f).dev = s.dev := rfl
@[simp] theorem State.modCur_focus (s : State) (f : Cur → Cur) : (s.modCur f).focus = s.focus := rfl
@[simp] theorem State.modCur_agenda (s : State) (f : Cur → Cur) : (s.modCur f).agenda = s.agenda := rfl
@[simp] theorem State.modCur_free (s : State) (f : Cur → Cur) : (s.modCur f).free = s.free := rfl

/-! ### setDie -/

@[simp] theorem State.setDie_variant (s : State) (d : Bool) (v : Die) : (s.setDie d v).variant = s.variant := rfl
@[simp] theorem State.setDie_cores (s : State) (d : Bool) (v : Die) : (s.setDie d v).cores = s.cores := rfl
@[simp] theorem State.setDie_mem (s : State) (d : Bool) (v : Die) : (s.setDie d v).mem = s.mem := rfl
@[simp] theorem State.setDie_coh (s : State) (d : Bool) (v : Die) : (s.setDie d v).coh = s.coh := rfl
@[simp] theorem State.setDie_fut (s : State) (d : Bool) (v : Die) : (s.setDie d v).fut = s.fut := rfl
@[simp] theorem State.setDie_casts (s : State) (d : Bool) (v : Die) : (s.setDie d v).casts = s.casts := rfl
@[simp] theorem State.setDie_tasks (s : State) (d : Bool) (v : Die) : (s.setDie d v).tasks = s.tasks := rfl
@[simp] theorem State.setDie_nextTask (s : State) (d : Bool) (v : Die) : (s.setDie d v).nextTask = s.nextTask := rfl
@[simp] theorem State.setDie_ages (s : State) (d : Bool) (v : Die) : (s.setDie d v).ages = s.ages := rfl
@[simp] theorem State.setDie_ended (s : State) (d : Bool) (v : Die) : (s.setDie d v).ended = s.ended := rfl
@[simp] theorem State.setDie_images (s : State) (d : Bool) (v : Die) : (s.setDie d v).images = s.images := rfl
@[simp] theorem State.setDie_log (s : State) (d : Bool) (v : Die) : (s.setDie d v).log = s.log := rfl
@[simp] theorem State.setDie_dev (s : State) (d : Bool) (v : Die) : (s.setDie d v).dev = s.dev := rfl
@[simp] theorem State.setDie_cur (s : State) (d : Bool) (v : Die) : (s.setDie d v).cur = s.cur := rfl
@[simp] theorem State.setDie_focus (s : State) (d : Bool) (v : Die) : (s.setDie d v).focus = s.focus := rfl
@[simp] theorem State.setDie_agenda (s : State) (d : Bool) (v : Die) : (s.setDie d v).agenda = s.agenda := rfl
@[simp] theorem State.setDie_free (s : State) (d : Bool) (v : Die) : (s.setDie d v).free = s.free := rfl

/-! ### modDie -/

@[simp] theorem State.modDie_variant (s : State) (d : Bool) (f : Die → Die) : (s.modDie d f).variant = s.variant := rfl
@[simp] theorem State.modDie_cores (s : State) (d : Bool) (f : Die → Die) : (s.modDie d f).cores = s.cores := rfl
@[simp] theorem State.modDie_mem (s : State) (d : Bool) (f : Die → Die) : (s.modDie d f).mem = s.mem := rfl
@[simp] theorem State.modDie_coh (s : State) (d : Bool) (f : Die → Die) : (s.modDie d f).coh = s.coh := rfl
@[simp] theorem State.modDie_fut (s : State) (d : Bool) (f : Die → Die) : (s.modDie d f).fut = s.fut := rfl
@[simp] theorem State.modDie_casts (s : State) (d : Bool) (f : Die → Die) : (s.modDie d f).casts = s.casts := rfl
@[simp] theorem State.modDie_tasks (s : State) (d : Bool) (f : Die → Die) : (s.modDie d f).tasks = s.tasks := rfl
@[simp] theorem State.modDie_nextTask (s : State) (d : Bool) (f : Die → Die) : (s.modDie d f).nextTask = s.nextTask := rfl
@[simp] theorem State.modDie_ages (s : State) (d : Bool) (f : Die → Die) : (s.modDie d f).ages = s.ages := rfl
@[simp] theorem State.modDie_ended (s : State) (d : Bool) (f : Die → Die) : (s.modDie d f).ended = s.ended := rfl
@[simp] theorem State.modDie_images (s : State) (d : Bool) (f : Die → Die) : (s.modDie d f).images = s.images := rfl
@[simp] theorem State.modDie_log (s : State) (d : Bool) (f : Die → Die) : (s.modDie d f).log = s.log := rfl
@[simp] theorem State.modDie_dev (s : State) (d : Bool) (f : Die → Die) : (s.modDie d f).dev = s.dev := rfl
@[simp] theorem State.modDie_cur (s : State) (d : Bool) (f : Die → Die) : (s.modDie d f).cur = s.cur := rfl
@[simp] theorem State.modDie_focus (s : State) (d : Bool) (f : Die → Die) : (s.modDie d f).focus = s.focus := rfl
@[simp] theorem State.modDie_agenda (s : State) (d : Bool) (f : Die → Die) : (s.modDie d f).agenda = s.agenda := rfl
@[simp] theorem State.modDie_free (s : State) (d : Bool) (f : Die → Die) : (s.modDie d f).free = s.free := rfl

/-! ### modQueue -/

@[simp] theorem State.modQueue_variant (s : State) (d : Bool) (q : BitVec 6) (f : Queue → Queue) : (s.modQueue d q f).variant = s.variant := rfl
@[simp] theorem State.modQueue_cores (s : State) (d : Bool) (q : BitVec 6) (f : Queue → Queue) : (s.modQueue d q f).cores = s.cores := rfl
@[simp] theorem State.modQueue_mem (s : State) (d : Bool) (q : BitVec 6) (f : Queue → Queue) : (s.modQueue d q f).mem = s.mem := rfl
@[simp] theorem State.modQueue_coh (s : State) (d : Bool) (q : BitVec 6) (f : Queue → Queue) : (s.modQueue d q f).coh = s.coh := rfl
@[simp] theorem State.modQueue_fut (s : State) (d : Bool) (q : BitVec 6) (f : Queue → Queue) : (s.modQueue d q f).fut = s.fut := rfl
@[simp] theorem State.modQueue_casts (s : State) (d : Bool) (q : BitVec 6) (f : Queue → Queue) : (s.modQueue d q f).casts = s.casts := rfl
@[simp] theorem State.modQueue_tasks (s : State) (d : Bool) (q : BitVec 6) (f : Queue → Queue) : (s.modQueue d q f).tasks = s.tasks := rfl
@[simp] theorem State.modQueue_nextTask (s : State) (d : Bool) (q : BitVec 6) (f : Queue → Queue) : (s.modQueue d q f).nextTask = s.nextTask := rfl
@[simp] theorem State.modQueue_ages (s : State) (d : Bool) (q : BitVec 6) (f : Queue → Queue) : (s.modQueue d q f).ages = s.ages := rfl
@[simp] theorem State.modQueue_ended (s : State) (d : Bool) (q : BitVec 6) (f : Queue → Queue) : (s.modQueue d q f).ended = s.ended := rfl
@[simp] theorem State.modQueue_images (s : State) (d : Bool) (q : BitVec 6) (f : Queue → Queue) : (s.modQueue d q f).images = s.images := rfl
@[simp] theorem State.modQueue_log (s : State) (d : Bool) (q : BitVec 6) (f : Queue → Queue) : (s.modQueue d q f).log = s.log := rfl
@[simp] theorem State.modQueue_dev (s : State) (d : Bool) (q : BitVec 6) (f : Queue → Queue) : (s.modQueue d q f).dev = s.dev := rfl
@[simp] theorem State.modQueue_cur (s : State) (d : Bool) (q : BitVec 6) (f : Queue → Queue) : (s.modQueue d q f).cur = s.cur := rfl
@[simp] theorem State.modQueue_focus (s : State) (d : Bool) (q : BitVec 6) (f : Queue → Queue) : (s.modQueue d q f).focus = s.focus := rfl
@[simp] theorem State.modQueue_agenda (s : State) (d : Bool) (q : BitVec 6) (f : Queue → Queue) : (s.modQueue d q f).agenda = s.agenda := rfl
@[simp] theorem State.modQueue_free (s : State) (d : Bool) (q : BitVec 6) (f : Queue → Queue) : (s.modQueue d q f).free = s.free := rfl

/-! ### modTask -/

@[simp] theorem State.modTask_variant (s : State) (id : Nat) (f : Task → Task) : (s.modTask id f).variant = s.variant := rfl
@[simp] theorem State.modTask_cores (s : State) (id : Nat) (f : Task → Task) : (s.modTask id f).cores = s.cores := rfl
@[simp] theorem State.modTask_dies (s : State) (id : Nat) (f : Task → Task) : (s.modTask id f).dies = s.dies := rfl
@[simp] theorem State.modTask_mem (s : State) (id : Nat) (f : Task → Task) : (s.modTask id f).mem = s.mem := rfl
@[simp] theorem State.modTask_coh (s : State) (id : Nat) (f : Task → Task) : (s.modTask id f).coh = s.coh := rfl
@[simp] theorem State.modTask_fut (s : State) (id : Nat) (f : Task → Task) : (s.modTask id f).fut = s.fut := rfl
@[simp] theorem State.modTask_casts (s : State) (id : Nat) (f : Task → Task) : (s.modTask id f).casts = s.casts := rfl
@[simp] theorem State.modTask_nextTask (s : State) (id : Nat) (f : Task → Task) : (s.modTask id f).nextTask = s.nextTask := rfl
@[simp] theorem State.modTask_ages (s : State) (id : Nat) (f : Task → Task) : (s.modTask id f).ages = s.ages := rfl
@[simp] theorem State.modTask_ended (s : State) (id : Nat) (f : Task → Task) : (s.modTask id f).ended = s.ended := rfl
@[simp] theorem State.modTask_images (s : State) (id : Nat) (f : Task → Task) : (s.modTask id f).images = s.images := rfl
@[simp] theorem State.modTask_log (s : State) (id : Nat) (f : Task → Task) : (s.modTask id f).log = s.log := rfl
@[simp] theorem State.modTask_dev (s : State) (id : Nat) (f : Task → Task) : (s.modTask id f).dev = s.dev := rfl
@[simp] theorem State.modTask_cur (s : State) (id : Nat) (f : Task → Task) : (s.modTask id f).cur = s.cur := rfl
@[simp] theorem State.modTask_focus (s : State) (id : Nat) (f : Task → Task) : (s.modTask id f).focus = s.focus := rfl
@[simp] theorem State.modTask_agenda (s : State) (id : Nat) (f : Task → Task) : (s.modTask id f).agenda = s.agenda := rfl
@[simp] theorem State.modTask_free (s : State) (id : Nat) (f : Task → Task) : (s.modTask id f).free = s.free := rfl

/-! ### modDev -/

@[simp] theorem State.modDev_variant (s : State) (f : Dev → Dev) : (s.modDev f).variant = s.variant := rfl
@[simp] theorem State.modDev_cores (s : State) (f : Dev → Dev) : (s.modDev f).cores = s.cores := rfl
@[simp] theorem State.modDev_dies (s : State) (f : Dev → Dev) : (s.modDev f).dies = s.dies := rfl
@[simp] theorem State.modDev_mem (s : State) (f : Dev → Dev) : (s.modDev f).mem = s.mem := rfl
@[simp] theorem State.modDev_coh (s : State) (f : Dev → Dev) : (s.modDev f).coh = s.coh := rfl
@[simp] theorem State.modDev_fut (s : State) (f : Dev → Dev) : (s.modDev f).fut = s.fut := rfl
@[simp] theorem State.modDev_casts (s : State) (f : Dev → Dev) : (s.modDev f).casts = s.casts := rfl
@[simp] theorem State.modDev_tasks (s : State) (f : Dev → Dev) : (s.modDev f).tasks = s.tasks := rfl
@[simp] theorem State.modDev_nextTask (s : State) (f : Dev → Dev) : (s.modDev f).nextTask = s.nextTask := rfl
@[simp] theorem State.modDev_ages (s : State) (f : Dev → Dev) : (s.modDev f).ages = s.ages := rfl
@[simp] theorem State.modDev_ended (s : State) (f : Dev → Dev) : (s.modDev f).ended = s.ended := rfl
@[simp] theorem State.modDev_images (s : State) (f : Dev → Dev) : (s.modDev f).images = s.images := rfl
@[simp] theorem State.modDev_log (s : State) (f : Dev → Dev) : (s.modDev f).log = s.log := rfl
@[simp] theorem State.modDev_cur (s : State) (f : Dev → Dev) : (s.modDev f).cur = s.cur := rfl
@[simp] theorem State.modDev_focus (s : State) (f : Dev → Dev) : (s.modDev f).focus = s.focus := rfl
@[simp] theorem State.modDev_agenda (s : State) (f : Dev → Dev) : (s.modDev f).agenda = s.agenda := rfl
@[simp] theorem State.modDev_free (s : State) (f : Dev → Dev) : (s.modDev f).free = s.free := rfl

/-! ### modCoh -/

@[simp] theorem State.modCoh_variant (s : State) (f : Coh → Coh) : (s.modCoh f).variant = s.variant := rfl
@[simp] theorem State.modCoh_cores (s : State) (f : Coh → Coh) : (s.modCoh f).cores = s.cores := rfl
@[simp] theorem State.modCoh_dies (s : State) (f : Coh → Coh) : (s.modCoh f).dies = s.dies := rfl
@[simp] theorem State.modCoh_mem (s : State) (f : Coh → Coh) : (s.modCoh f).mem = s.mem := rfl
@[simp] theorem State.modCoh_fut (s : State) (f : Coh → Coh) : (s.modCoh f).fut = s.fut := rfl
@[simp] theorem State.modCoh_casts (s : State) (f : Coh → Coh) : (s.modCoh f).casts = s.casts := rfl
@[simp] theorem State.modCoh_tasks (s : State) (f : Coh → Coh) : (s.modCoh f).tasks = s.tasks := rfl
@[simp] theorem State.modCoh_nextTask (s : State) (f : Coh → Coh) : (s.modCoh f).nextTask = s.nextTask := rfl
@[simp] theorem State.modCoh_ages (s : State) (f : Coh → Coh) : (s.modCoh f).ages = s.ages := rfl
@[simp] theorem State.modCoh_ended (s : State) (f : Coh → Coh) : (s.modCoh f).ended = s.ended := rfl
@[simp] theorem State.modCoh_images (s : State) (f : Coh → Coh) : (s.modCoh f).images = s.images := rfl
@[simp] theorem State.modCoh_log (s : State) (f : Coh → Coh) : (s.modCoh f).log = s.log := rfl
@[simp] theorem State.modCoh_dev (s : State) (f : Coh → Coh) : (s.modCoh f).dev = s.dev := rfl
@[simp] theorem State.modCoh_cur (s : State) (f : Coh → Coh) : (s.modCoh f).cur = s.cur := rfl
@[simp] theorem State.modCoh_focus (s : State) (f : Coh → Coh) : (s.modCoh f).focus = s.focus := rfl
@[simp] theorem State.modCoh_agenda (s : State) (f : Coh → Coh) : (s.modCoh f).agenda = s.agenda := rfl
@[simp] theorem State.modCoh_free (s : State) (f : Coh → Coh) : (s.modCoh f).free = s.free := rfl

/-! ### Reading back -/

@[simp] theorem State.coreAt_setCore (s : State) (c : CoreId) (k : Core) : (s.setCore c k).coreAt c = k := by
  simp [State.coreAt, State.setCore]

theorem State.coreAt_setCore_ne (s : State) (c c' : CoreId) (k : Core) (h : c' ≠ c) :
    (s.setCore c k).coreAt c' = s.coreAt c' := by
  have : c.toNat ≠ c'.toNat := fun e => h (BitVec.eq_of_toNat_eq e.symm)
  simp [State.coreAt, State.setCore, this]

@[simp] theorem State.setCore_coreAt (s : State) (c : CoreId) : s.setCore c (s.coreAt c) = s := by
  cases s; simp [State.coreAt, State.setCore]

@[simp] theorem State.setCore_setCore (s : State) (c : CoreId) (k l : Core) :
    (s.setCore c k).setCore c l = s.setCore c l := by
  simp [State.setCore]

@[simp] theorem Core.ctxAt_setCtx (k : Core) (x : CtxId) (v : Ctx) : (k.setCtx x v).ctxAt x = v := by
  simp [Core.ctxAt, Core.setCtx]

theorem Core.ctxAt_setCtx_ne (k : Core) (x x' : CtxId) (v : Ctx) (h : x' ≠ x) :
    (k.setCtx x v).ctxAt x' = k.ctxAt x' := by
  have : x.toNat ≠ x'.toNat := fun e => h (BitVec.eq_of_toNat_eq e.symm)
  simp [Core.ctxAt, Core.setCtx, this]

@[simp] theorem Core.setCtx_ctxAt (k : Core) (x : CtxId) : k.setCtx x (k.ctxAt x) = k := by
  cases k; simp [Core.ctxAt, Core.setCtx]

@[simp] theorem Core.setCtx_setCtx (k : Core) (x : CtxId) (v w : Ctx) : (k.setCtx x v).setCtx x w = k.setCtx x w := by
  simp [Core.setCtx]

@[simp] theorem State.coreAt_setCtx (s : State) (c : CoreId) (x : CtxId) (v : Ctx) :
    (s.setCtx c x v).coreAt c = (s.coreAt c).setCtx x v := by
  simp [State.setCtx]

theorem State.coreAt_setCtx_ne (s : State) (c c' : CoreId) (x : CtxId) (v : Ctx) (h : c' ≠ c) :
    (s.setCtx c x v).coreAt c' = s.coreAt c' := State.coreAt_setCore_ne s c c' _ h

@[simp] theorem State.ctxAt_setCtx (s : State) (c : CoreId) (x : CtxId) (v : Ctx) : (s.setCtx c x v).ctxAt c x = v := by
  simp [State.ctxAt]

theorem State.ctxAt_setCtx_ne (s : State) (c : CoreId) (x x' : CtxId) (v : Ctx) (h : x' ≠ x) :
    (s.setCtx c x v).ctxAt c x' = s.ctxAt c x' := by
  simp [State.ctxAt, Core.ctxAt_setCtx_ne _ _ _ _ h]

@[simp] theorem State.setCtx_ctxAt (s : State) (c : CoreId) (x : CtxId) : s.setCtx c x (s.ctxAt c x) = s := by
  simp [State.setCtx, State.ctxAt]

@[simp] theorem State.setCtx_setCtx (s : State) (c : CoreId) (x : CtxId) (v w : Ctx) :
    (s.setCtx c x v).setCtx c x w = s.setCtx c x w := by
  simp [State.setCtx]

@[simp] theorem State.me_setMe (s : State) (v : Ctx) : (s.setMe v).me = v := by
  simp [State.me, State.setMe]

@[simp] theorem State.me_modMe (s : State) (f : Ctx → Ctx) : (s.modMe f).me = f s.me := by
  simp [State.modMe]

@[simp] theorem State.setMe_setMe (s : State) (v w : Ctx) : (s.setMe v).setMe w = s.setMe w := by
  simp [State.setMe]

@[simp] theorem State.modMe_modMe (s : State) (f g : Ctx → Ctx) : (s.modMe f).modMe g = s.modMe fun v => g (f v) := by
  simp [State.modMe]

@[simp] theorem State.me_modRegs (s : State) (f : Regs → Regs) : (s.modRegs f).me = { s.me with r := f s.me.r } := by
  simp [State.modRegs]

@[simp] theorem State.coreAt_modCur (s : State) (f : Cur → Cur) (c : CoreId) : (s.modCur f).coreAt c = s.coreAt c := rfl

@[simp] theorem State.ctxAt_modCur (s : State) (f : Cur → Cur) (c : CoreId) (x : CtxId) :
    (s.modCur f).ctxAt c x = s.ctxAt c x := rfl

@[simp] theorem State.modCur_cur (s : State) (f : Cur → Cur) : (s.modCur f).cur = f s.cur := rfl

@[simp] theorem State.modDev_dev (s : State) (f : Dev → Dev) : (s.modDev f).dev = f s.dev := rfl

@[simp] theorem State.modCoh_coh (s : State) (f : Coh → Coh) : (s.modCoh f).coh = f s.coh := rfl

@[simp] theorem State.dieAt_setDie (s : State) (d : Bool) (v : Die) : (s.setDie d v).dieAt d = v := by
  simp [State.dieAt, State.setDie]

@[simp] theorem State.setDie_setDie (s : State) (d : Bool) (v w : Die) : (s.setDie d v).setDie d w = s.setDie d w := by
  simp [State.setDie]

end Sys2Proof.Machine
end

