-- ==== Sys2Proof/Laws/Records.lean ====
section
/-! SUPPORT. Laws/Records.lean: all that TSPAWN's read of its record does once what it reads is held (R231, R315). -/

namespace Sys2Proof.Machine

/-- Bytes that are held are read at once; what follows goes on with them. -/
theorem State.spawnBytes_held {s u v : State} {keys : List (Nat × PageKind)} {bs : List Byte}
    (room : s.spaceWaits s.cur.core s.cur.ctx false keys = false)
    (pins : s.pinAll s.cur.core s.cur.ctx .engine true (trackedLines keys) = (true, u))
    (bytes : ((u.recordBytes s.cur.core s.cur.ctx keys).spaceRule s.cur.core s.cur.ctx).loadBytes
      s.cur.core s.cur.ctx false 0 keys = (bs, v)) (k : List Byte → State → State) :
    s.spawnBytes keys k = k bs v := by
  simp [State.spawnBytes, room, pins, bytes]

/-- A record whose mask and bytes are held is read at once, and its pins go. -/
theorem State.readsRecord_held {s u : State} {a : Nat} {mask keys : List (Nat × PageKind)} {m bs : List Byte} {v : State}
    (hit : s.me.readHit = none) (first : s.recordKeys a 2 = .ok (some mask))
    (head : ∀ k, s.spawnBytes mask k = k m u) (all : u.recordKeys a (recordLen (leVal m)) = .ok (some keys))
    (body : ∀ k, u.spawnBytes keys k = k bs v) :
    let w := v.clearPort v.cur.core (trackedLines keys)
    s.ReadsRecord a (some bs) (w.releasePins w.cur.core w.cur.ctx) := by
  intro w k
  simp [State.readRecord, hit, first, head, all, body, w]

/-- A record that runs beyond its tensor is not read. -/
theorem State.readsRecord_beyond {s : State} {a : Nat} (hit : s.me.readHit = none) (first : s.recordKeys a 2 = .ok none) :
    s.ReadsRecord a none (s.releasePins s.cur.core s.cur.ctx) := by
  intro k
  simp [State.readRecord, hit, first]

end Sys2Proof.Machine
end

