-- ==== Sys2Proof/Laws/Results.lean ====
section
/-! SUPPORT. Laws/Results.lean: once for each, all that the shared operations of results do: a scalar write (R92), a
predicate write, a slab result of the V pipes, a slot-precise exception (R384, R385). -/

namespace Sys2Proof.Machine

theorem OnlyCore.refl (c : CoreId) (s : State) : OnlyCore c s s := ⟨rfl, fun _ _ => rfl, fun _ => rfl⟩

theorem OnlyCtx.refl (c : CoreId) (x : CtxId) (s : State) : OnlyCtx c x s s := ⟨.refl c s, rfl, fun _ _ => rfl⟩

theorem OnlyMe.refl (s : State) : OnlyMe s s := ⟨.refl _ _ s, rfl⟩

/-- A new value for one context, and anything for the record of the bundle. -/
theorem onlyCtx_set (s : State) (c : CoreId) (x : CtxId) (v : Ctx) (f : Cur → Cur) :
    OnlyCtx c x s ((s.setCtx c x v).modCur f) := by
  refine ⟨⟨rfl, fun c' h => ?_, fun _ => rfl⟩, ?_, fun x' h => ?_⟩
  · simp [State.coreAt_setCtx_ne, h]
  · simp [Core.setCtx]
  · simp [State.ctxAt_setCtx_ne, h]

theorem note_eq (s : State) (id : Byte) (old : Word) :
    ∃ ov, s.note id old = s.modCur fun u => { u with overlay := ov } := by
  unfold State.note
  split
  · exact ⟨s.cur.overlay, rfl⟩
  · exact ⟨_, rfl⟩


/-! ### Scalar registers -/

theorem shadowIx_eq {n m : SReg} (hn : 56 ≤ n.toNat) (hm : 56 ≤ m.toNat) (h : shadowIx n = shadowIx m) : n = m := by
  revert n m; decide

theorem Regs.getAt_putAt (r : Regs) (sh : Bool) (n : SReg) (v : Word) (h : sh = true ∨ n ≠ 0) :
    (r.putAt sh n v).getAt sh n = v := by
  cases sh <;> simp_all [Regs.putAt, Regs.getAt]

theorem bit_clear {w : Nat} (m : BitVec w) (i j : Nat) :
    (m &&& ~~~(1#w <<< i)).getLsbD j = (m.getLsbD j && !decide (i = j)) := by
  simp only [BitVec.getLsbD_and, BitVec.getLsbD_not, BitVec.getLsbD_shiftLeft]
  by_cases hj : j < w
  · by_cases h : i = j
    · subst h; simp [hj]; omega
    · by_cases h2 : j < i
      · simp [hj, h2, h]
      · have : j - i ≠ 0 := by omega
        simp [hj, h2, h, this, BitVec.getLsbD_one]
  · simp [BitVec.getLsbD_of_ge m j (by omega)]

theorem bit_set {w : Nat} (m : BitVec w) (i j : Nat) (hj : j < w) :
    (m ||| (1#w <<< i)).getLsbD j = (m.getLsbD j || decide (i = j)) := by
  simp only [BitVec.getLsbD_or, BitVec.getLsbD_shiftLeft]
  by_cases h : i = j
  · subst h; simp [hj]; omega
  · by_cases h2 : j < i
    · simp [h2, h]
    · have : j - i ≠ 0 := by omega
      simp [h2, h, this, BitVec.getLsbD_one]

theorem sreg_ne {n d : SReg} (h : n ≠ d) : d.toNat ≠ n.toNat := fun e => h (BitVec.eq_of_toNat_eq e.symm)

theorem shadow_ne {n d : SReg} (hn : 56 ≤ n.toNat) (hd : 56 ≤ d.toNat) (h : n ≠ d) :
    (shadowIx d).toNat ≠ (shadowIx n).toNat :=
  fun e => h (shadowIx_eq hn hd (BitVec.eq_of_toNat_eq e.symm))

theorem sreg_lt (n : SReg) : n.toNat < 64 := n.isLt
theorem shadowIx_lt (n : SReg) : (shadowIx n).toNat < 8 := (shadowIx n).isLt

/-- A register is full after a write. -/
theorem Regs.emptyAt_putAt (r : Regs) (sh : Bool) (n : SReg) (v : Word) : (r.putAt sh n v).emptyAt sh n = false := by
  cases sh
  · by_cases h : n = 0#6
    · simp [Regs.putAt, Regs.emptyAt, h]
    · simp only [Regs.putAt, Regs.emptyAt, Bool.false_eq_true, if_false, BitVec.ofNat_eq_ofNat, h, bit_clear]
      simp
  · simp only [Regs.putAt, Regs.emptyAt, if_true, BitVec.ofNat_eq_ofNat, bit_clear]
    simp

/-- The registers that a write does not name. -/
theorem Regs.putAt_other (r : Regs) (sh sh' : Bool) (d n : SReg) (v : Word) (hd : sh = true → 56 ≤ d.toNat)
    (hn : sh' = true → 56 ≤ n.toNat) (h : n ≠ d ∨ sh' ≠ sh) :
    (r.putAt sh d v).getAt sh' n = r.getAt sh' n ∧ (r.putAt sh d v).emptyAt sh' n = r.emptyAt sh' n := by
  cases sh <;> cases sh' <;> simp at h hd hn
  · by_cases h0 : d = 0#6
    · simp [Regs.putAt, h0]
    · simp only [Regs.putAt, Regs.getAt, Regs.emptyAt, Bool.false_eq_true, if_false, BitVec.ofNat_eq_ofNat, h0, bit_clear]
      simp [sreg_ne h]
  · by_cases h0 : d = 0#6
    · simp [Regs.putAt, h0]
    · simp only [Regs.putAt, Regs.getAt, Regs.emptyAt, Bool.false_eq_true, if_false, BitVec.ofNat_eq_ofNat, h0]
      simp
  · simp [Regs.putAt, Regs.getAt, Regs.emptyAt]
  · simp only [Regs.putAt, Regs.getAt, Regs.emptyAt, if_true, BitVec.ofNat_eq_ofNat, bit_clear]
    simp [shadow_ne hn hd h]

theorem Regs.isShadow_ge {r : Regs} {n : SReg} (h : r.isShadow n = true) : 56 ≤ n.toNat := by
  simp [Regs.isShadow] at h; exact h.2

@[simp] theorem Regs.isShadow_putAt (r : Regs) (sh : Bool) (d n : SReg) (v : Word) :
    (r.putAt sh d v).isShadow n = r.isShadow n := by
  unfold Regs.putAt; split
  · rfl
  · split <;> rfl

@[simp] theorem Regs.isShadow_markEmpty (r : Regs) (d n : SReg) : (r.markEmpty d).isShadow n = r.isShadow n := by
  unfold Regs.markEmpty; split
  · rfl
  · split <;> rfl

theorem Regs.putAt_regs (r : Regs) (sh : Bool) (d : SReg) (v : Word) :
    { r.putAt sh d v with s := r.s, sEmpty := r.sEmpty, sh := r.sh, shEmpty := r.shEmpty } = r := by
  unfold Regs.putAt; split
  · rfl
  · split <;> rfl

theorem Regs.markEmpty_regs (r : Regs) (d : SReg) :
    { r.markEmpty d with s := r.s, sEmpty := r.sEmpty, sh := r.sh, shEmpty := r.shEmpty } = r := by
  unfold Regs.markEmpty; split
  · rfl
  · split <;> rfl

/-- The register is empty. -/
theorem Regs.isEmptyS_markEmpty (r : Regs) (d : SReg) (h : d ≠ 0) : (r.markEmpty d).isEmptyS d = true := by
  have h' : d ≠ 0#6 := h
  unfold Regs.isEmptyS
  rw [Regs.isShadow_markEmpty]
  unfold Regs.markEmpty
  by_cases hs : r.isShadow d
  · simp only [hs, if_true, Regs.emptyAt, BitVec.ofNat_eq_ofNat, bit_set _ _ _ (shadowIx_lt d)]; simp
  · simp only [hs, h', if_false, Regs.emptyAt, Bool.false_eq_true, BitVec.ofNat_eq_ofNat, bit_set _ _ _ (sreg_lt d)]
    simp [h']

/-- Marking a register empty leaves every other register and every value. -/
theorem Regs.markEmpty_other (r : Regs) (sh : Bool) (d n : SReg) (hn : sh = true → 56 ≤ n.toNat)
    (h : n ≠ d ∨ sh ≠ r.isShadow d) :
    (r.markEmpty d).getAt sh n = r.getAt sh n ∧ (r.markEmpty d).emptyAt sh n = r.emptyAt sh n := by
  unfold Regs.markEmpty
  by_cases hs : r.isShadow d
  · have hd := Regs.isShadow_ge hs
    cases sh <;> simp [hs] at h hn
    · simp [hs, Regs.getAt, Regs.emptyAt]
    · simp only [hs, Regs.getAt, Regs.emptyAt, if_true, true_and, BitVec.ofNat_eq_ofNat, bit_set _ _ _ (shadowIx_lt n)]
      simp [shadow_ne hn hd h]
  · by_cases h0 : d = 0#6
    · have e : r.isShadow 0#6 = false := by simpa [h0] using hs
      simp [h0, e]
    · cases sh <;> simp [hs] at h hn
      · simp only [hs, h0, Regs.getAt, Regs.emptyAt, Bool.false_eq_true, if_false, true_and, BitVec.ofNat_eq_ofNat,
          bit_set _ _ _ (sreg_lt n)]
        simp [sreg_ne h]
      · simp [hs, h0, Regs.getAt, Regs.emptyAt]

/-- Every register but the one written keeps its value and its state. -/
theorem otherScalars_put (s t : State) (d : SReg) (v : Word)
    (h : t.me.r = s.me.r.putS d v) : OtherScalars s t d := by
  constructor
  · intro n hn
    rw [h]
    refine Regs.putAt_other _ _ _ _ _ _ (fun e => Regs.isShadow_ge e) (by simp) ?_
    rcases hn with hn | hn
    · exact .inl hn
    · exact .inr (by simp [hn])
  · intro n h56 hn
    rw [h]
    refine Regs.putAt_other _ _ _ _ _ _ (fun e => Regs.isShadow_ge e) (fun _ => h56) ?_
    rcases hn with hn | hn
    · exact .inl hn
    · exact .inr (by simp [hn])

theorem otherScalars_mark (s t : State) (d : SReg) (h : t.me.r = s.me.r.markEmpty d) : OtherScalars s t d := by
  constructor
  · intro n hn
    rw [h]
    refine Regs.markEmpty_other _ _ _ _ (by simp) ?_
    rcases hn with hn | hn
    · exact .inl hn
    · exact .inr (by simp [hn])
  · intro n h56 hn
    rw [h]
    refine Regs.markEmpty_other _ _ _ _ (fun _ => h56) ?_
    rcases hn with hn | hn
    · exact .inl hn
    · exact .inr (by simp [hn])

/-- A new value for the issuing context, and a new overlay. -/
theorem onlyMe_set (s : State) (v : Ctx) (ov : List (Byte × Word)) :
    OnlyMe s ((s.setMe v).modCur fun u => { u with overlay := ov }) := ⟨onlyCtx_set s _ _ v _, rfl⟩

theorem wrote_put (s : State) (d : SReg) (v : Word) (ov : List (Byte × Word)) (h0 : d ≠ 0) :
    Wrote s ((s.setMe { s.me with r := s.me.r.putS d v }).modCur fun u => { u with overlay := ov }) d v := by
  have hme : ((s.setMe { s.me with r := s.me.r.putS d v }).modCur fun u => { u with overlay := ov }).me
      = { s.me with r := s.me.r.putS d v } := State.me_setMe s _
  refine ⟨onlyMe_set s _ ov, otherScalars_put s _ d v (by rw [hme]), fun _ => ?_, ?_, fun e => absurd e h0, ?_, ?_⟩
  · unfold State.valS; rw [hme]
    simp only [Regs.getS, Regs.putS, Regs.isShadow_putAt]
    exact Regs.getAt_putAt _ _ _ _ (.inr h0)
  · unfold State.FullS; rw [hme]
    simp only [Regs.isEmptyS, Regs.putS, Regs.isShadow_putAt]
    exact Regs.emptyAt_putAt _ _ _ _
  · rw [hme]; exact Regs.putAt_regs _ _ _ _
  · rw [hme]

/-- Two updates of the issuing context in turn. -/
theorem State.addPend_setMe (s : State) (v : Ctx) (e u : Nat) (fp : Bool) (fl : Flags) (k : PendKind) :
    (s.setMe v).addPend e u fp fl k = s.setMe
      { v with pend := v.pend ++ [⟨v.seq, e, u, v.region, s.cur.pos, s.cur.addr, fp, fl, k⟩], seq := v.seq + 1 } := by
  simp [State.addPend, State.modMe]

theorem onlyMe_setMe (s : State) (v : Ctx) : OnlyMe s (s.setMe v) := onlyMe_set s v s.cur.overlay

theorem queued_mark (s : State) (d : SReg) (v : Word) (lat : Nat) (fp : Bool) (fl : Flags) :
    Queued s ((s.modRegs fun r => r.markEmpty d).addPend
      (max (s.now + lat) (s.me.sregAfter (s.me.r.isShadow d) d))
      (max (s.now + lat) (s.me.sregAfter (s.me.r.isShadow d) d)) fp fl (.sreg (s.me.r.isShadow d) d v))
      d v lat fp fl := by
  simp only [State.modRegs, State.modMe, State.addPend_setMe]
  refine ⟨onlyMe_setMe s _, otherScalars_mark s _ d (by simp), fun h => ?_, ⟨_, rfl, by simp⟩, by simp, ?_, by simp⟩
  · simp [State.FullS, Regs.isEmptyS_markEmpty _ _ h]
  · simp only [State.me_setMe]; exact Regs.markEmpty_regs _ _

/-- RegWrite of R92 does what Writes says. -/
theorem regWriteF_writes (s : State) (d : SReg) (v : Word) (lat : Nat) (fp : Bool) (fl : Flags) :
    Writes s (s.regWriteF d v lat fp fl) d v lat fp fl := by
  unfold Writes State.regWriteF
  by_cases h1 : lat ≤ 1 ∧ s.me.sregPending (s.me.r.isShadow d) d = false
  · have h2 : (decide (lat ≤ 1) && !s.me.sregPending (s.me.r.isShadow d) d) = true := by simp [h1]
    simp only [h1, and_self, if_true]
    by_cases h0 : d = 0
    · simp only [h0, if_true]
      refine ⟨.refl s, ⟨fun _ _ => ⟨rfl, rfl⟩, fun _ _ _ => ⟨rfl, rfl⟩⟩, fun h => absurd rfl h, ?_, fun _ => rfl, rfl, rfl⟩
      simp [State.FullS, Regs.isEmptyS, Regs.emptyAt, Regs.isShadow]
    · obtain ⟨ov, e⟩ := note_eq s (BitVec.ofNat 8 (128 + d.toNat)) (s.me.r.getS d)
      simp only [h0, if_false, e]
      exact wrote_put s d v ov h0
  · have h2 : (decide (lat ≤ 1) && !s.me.sregPending (s.me.r.isShadow d) d) = false := by
      simpa using h1
    simp only [h1, if_false, h2, Bool.false_eq_true]
    by_cases h0 : d = 0 ∧ fl = 0
    · simp [h0]
    · have h3 : (decide (d = 0) && decide (fl = 0)) = false := by simpa using h0
      simp only [h0, if_false, h3, Bool.false_eq_true]
      exact queued_mark s d v lat fp fl

/-! ### Predicates -/

/-- A predicate write of latency 1 does what WrotePred says. -/
theorem predWrite_wrote (s : State) (d : PReg) (v : Bool) : WrotePred s (s.predWrite d v) d v := by
  unfold State.predWrite
  by_cases h0 : d = 0
  · simp only [h0, if_true]
    exact ⟨.refl s, fun h => absurd rfl h, fun _ _ => rfl, fun _ => rfl, rfl, rfl⟩
  · obtain ⟨ov, e⟩ := note_eq s 0xC0 (s.me.r.p.setWidth 64)
    simp only [h0, if_false, e]
    have hme : ((s.modCur fun u => { u with overlay := ov }).modMe fun c => { c with r := c.r.putP d v }.touchP d).me
        = { s.me with r := s.me.r.putP d v }.touchP d := State.me_setMe _ _
    have h0' : d ≠ 0#4 := h0
    refine ⟨onlyMe_set s _ ov, fun _ => ?_, fun p hp => ?_, fun h => absurd h h0, ?_, ?_⟩
    · rw [hme]
      cases v
      · simp only [Ctx.touchP, Regs.getP, Regs.putP, h0', if_false, BitVec.ofNat_eq_ofNat, Bool.false_eq_true, bit_clear]
        simp
      · simp only [Ctx.touchP, Regs.getP, Regs.putP, h0', if_false, if_true, BitVec.ofNat_eq_ofNat, bit_set _ _ _ d.isLt]
        simp
    · have hne : d.toNat ≠ p.toNat := fun e => hp (BitVec.eq_of_toNat_eq e.symm)
      rw [hme]
      cases v
      · simp only [Ctx.touchP, Regs.getP, Regs.putP, h0', if_false, BitVec.ofNat_eq_ofNat, Bool.false_eq_true, bit_clear]
        simp [hne]
      · simp only [Ctx.touchP, Regs.getP, Regs.putP, h0', if_false, if_true, BitVec.ofNat_eq_ofNat, bit_set _ _ _ p.isLt]
        simp [hne]
    · rw [hme]; simp only [Ctx.touchP, Regs.putP]; split <;> (try split) <;> rfl
    · rw [hme]; rfl

/-! ### Slab results -/

theorem getIx_putIx (r : Regs) (i j : IxReg) (w : Word) :
    (r.putIx i w).getIx j = if i = j then w else r.getIx j := by
  by_cases h : i = j
  · subst h; simp [Regs.getIx, Regs.putIx]
  · have : i.toNat ≠ j.toNat := fun e => h (BitVec.eq_of_toNat_eq e)
    simp [Regs.getIx, Regs.putIx, h, this]

/-- The registers after the post-increments of a list of index registers. -/
def stepIxs (r : Regs) (js : List IxReg) : Regs := js.foldl (fun r j => r.putIx j (ixNext (r.getIx j))) r

theorem stepIxs_regs (js : List IxReg) : ∀ r : Regs, { stepIxs r js with ix := r.ix } = r := by
  induction js with
  | nil => intro r; rfl
  | cons j js ih =>
    intro r
    have h := ih (r.putIx j (ixNext (r.getIx j)))
    have e : stepIxs r (j :: js) = stepIxs (r.putIx j (ixNext (r.getIx j))) js := rfl
    rw [e]
    generalize stepIxs (r.putIx j (ixNext (r.getIx j))) js = t at h
    cases t; cases r
    simp only [Regs.putIx, Regs.mk.injEq] at h ⊢
    simp_all

theorem stepIxs_getIx (js : List IxReg) : ∀ r : Regs, js.Nodup → ∀ j,
    (stepIxs r js).getIx j = if js.contains j then ixNext (r.getIx j) else r.getIx j := by
  induction js with
  | nil => intro r _ j; rfl
  | cons i js ih =>
    intro r hn j
    have e : stepIxs r (i :: js) = stepIxs (r.putIx i (ixNext (r.getIx i))) js := rfl
    rw [e, ih _ (List.nodup_cons.1 hn).2 j, getIx_putIx]
    by_cases h : i = j
    · subst h
      have : i ∉ js := (List.nodup_cons.1 hn).1
      simp [this]
    · have h' : j ≠ i := fun e => h e.symm
      simp [h, h']

theorem incsOf_nodup (fs : List VField) : (incsOf fs).Nodup := by
  unfold incsOf
  exact List.Nodup.filter _ (by decide)

/-- The post-increments of a slot change the index registers and the overlay only. -/
theorem postInc_eq (fs : List VField) (s : State) : ∃ ov, s.postInc fs =
    (s.setMe { s.me with r := stepIxs s.me.r (incsOf fs) }).modCur fun u => { u with overlay := ov } := by
  unfold State.postInc
  generalize incsOf fs = js
  induction js generalizing s with
  | nil =>
    have e : s.setMe s.me = s := State.setCtx_ctxAt s _ _
    exact ⟨s.cur.overlay, by show s = (s.setMe s.me).modCur _; rw [e]; rfl⟩
  | cons j js ih =>
    obtain ⟨ov1, e1⟩ := note_eq s (BitVec.ofNat 8 (0xC4 + j.toNat)) (s.me.r.getIx j)
    obtain ⟨ov2, e2⟩ := ih (s.ixWrite j (ixNext (s.me.r.getIx j)))
    refine ⟨ov2, ?_⟩
    rw [List.foldl_cons, e2]
    unfold State.ixWrite
    rw [e1]
    have h : ((s.modCur fun u => { u with overlay := ov1 }).modRegs fun r => r.putIx j (ixNext (s.me.r.getIx j)))
        = (s.setMe { s.me with r := s.me.r.putIx j (ixNext (s.me.r.getIx j)) }).modCur fun u => { u with overlay := ov1 } := rfl
    rw [h]
    have hme : ((s.setMe { s.me with r := s.me.r.putIx j (ixNext (s.me.r.getIx j)) }).modCur
        fun u => { u with overlay := ov1 }).me = { s.me with r := s.me.r.putIx j (ixNext (s.me.r.getIx j)) } :=
      State.me_setMe _ _
    rw [hme]
    have h2 : ∀ (v w : Ctx), (((s.setMe v).modCur fun u => { u with overlay := ov1 }).setMe w).modCur
        (fun u => { u with overlay := ov2 }) = (s.setMe w).modCur fun u => { u with overlay := ov2 } := by
      intro v w
      have := State.setMe_setMe s v w
      unfold State.modCur State.setMe State.setCtx State.setCore at *
      simp only [State.mk.injEq] at this ⊢
      simp [State.coreAt]
    rw [h2]; rfl

/-- A new core, its contexts but the issuing one as they were, and a new overlay. -/
theorem onlyMyCore_set (s : State) (k : Core) (v : Ctx) (ov : List (Byte × Word)) (h : k.ctxs = s.myCore.ctxs) :
    OnlyMyCore s ((s.setCore s.cur.core (k.setCtx s.cur.ctx v)).modCur fun u => { u with overlay := ov }) := by
  refine ⟨⟨rfl, fun c' hc => ?_, fun _ => rfl⟩, fun x' hx => ?_, rfl⟩
  · simp [State.coreAt_setCore_ne, hc]
  · simp only [State.ctxAt, State.coreAt_modCur, State.coreAt_setCore, Core.ctxAt_setCtx_ne _ _ _ _ hx]
    simp [Core.ctxAt, h, State.myCore]

/-- The state a slab result leaves, in one update of the core. -/
theorem slabOut_eq (s : State) (f : Core → Core) (fields : List VField) (ds : List Nat) (data side : List Host.Cell)
    (lat : Nat) (fp : Bool) (fl : Flags) (hc : ∀ k, (f k).ctxs = k.ctxs) (hy : ∀ k, (f k).cycle = k.cycle) :
    ∃ ov due, due = max (s.now + lat)
        (s.me.pend.foldl (fun m p => if p.writes.any fun q => ds.contains q then max m (p.due + 1) else m) 0) ∧
      ((s.modMyCore f).slabWrite ds data side lat fp fl).postInc fields =
      (s.setCore s.cur.core ((f s.myCore).setCtx s.cur.ctx
        { s.me with
          r := stepIxs s.me.r (incsOf fields), seq := s.me.seq + 1
          slabEmpty := s.me.slabEmpty ++ ds.filter fun q => !s.me.slabEmpty.contains q
          pend := s.me.pend ++ [⟨s.me.seq, due, due, s.me.region, s.cur.pos, s.cur.addr, fp, fl, .slab ds data side⟩] })).modCur
        fun u => { u with overlay := ov } := by
  have hme : (s.modMyCore f).me = s.me := by
    simp [State.me, State.modMyCore, State.modCore, State.ctxAt, Core.ctxAt, hc]
  have hcy : (s.modMyCore f).now = s.now := by
    simp [State.now, State.myCore, State.modMyCore, State.modCore, hy]
  obtain ⟨ov, e⟩ := postInc_eq fields ((s.modMyCore f).slabWrite ds data side lat fp fl)
  refine ⟨ov, _, rfl, ?_⟩
  rw [e]
  unfold State.slabWrite
  simp only [hme, hcy, State.modMe, State.addPend_setMe, State.me_setMe, State.setMe_setMe]
  simp [State.setMe, State.setCtx, State.modMyCore, State.modCore, State.myCore, State.setCore, State.modCur, State.coreAt]

theorem slabQueued_of (s : State) (f : Core → Core) (fields : List VField) (ds : List Nat) (data side : List Host.Cell)
    (lat : Nat) (fp : Bool) (fl : Flags) (hc : ∀ k, (f k).ctxs = k.ctxs) (hy : ∀ k, (f k).cycle = k.cycle) :
    SlabQueued s (((s.modMyCore f).slabWrite ds data side lat fp fl).postInc fields) fields ds data side lat fp fl := by
  obtain ⟨ov, due, hdue, e⟩ := slabOut_eq s f fields ds data side lat fp fl hc hy
  rw [e]
  have hme : ∀ v : Ctx, ((s.setCore s.cur.core ((f s.myCore).setCtx s.cur.ctx v)).modCur
      fun u => { u with overlay := ov }).me = v := by intro v; simp [State.me, State.ctxAt]
  refine ⟨onlyMyCore_set s _ _ ov (hc _), ⟨due, hdue, by rw [hme]⟩, by rw [hme], fun q => ?_, fun j => ?_, ?_, by rw [hme]⟩
  · rw [hme]
    by_cases h : q ∈ s.me.slabEmpty <;> simp [h]
  · rw [hme]; exact stepIxs_getIx _ _ (incsOf_nodup _) j
  · rw [hme]; exact stepIxs_regs _ _

/-- R120, R161: a V slot's slab result while no trap is enabled. -/
theorem vecOut_queued (s : State) (fields : List VField) (ds : List Nat) (data side : List Host.Cell) (lat occ : Nat)
    (fp : Bool) (fl : Option Flags) (h : fl = none ∨ s.Imprecise) :
    VecQueued s (s.vecOut fields ds data side lat occ fp fl) fields ds data side lat occ fp (fl.getD 0) := by
  have e : s.vecOut fields ds data side lat occ fp fl =
      ((s.takePipe occ).slabWrite ds data side lat fp (fl.getD 0)).postInc fields := by
    unfold State.vecOut State.precise
    have hme : (s.takePipe occ).me.r = s.me.r := by
      simp [State.takePipe, State.me, State.modMyCore, State.modCore, State.ctxAt, Core.ctxAt]
    rcases h with h | h
    · simp [h]
    · cases fl
      · rfl
      · rw [hme]; simp [show s.me.r.ten = 0 from h]
  rw [e]
  refine ⟨slabQueued_of s _ fields ds data side lat fp (fl.getD 0) (fun _ => rfl) (fun _ => rfl), ?_⟩
  obtain ⟨ov, due, _, e⟩ := slabOut_eq s
    (fun k => { k with vfree := k.vfree.set (pipeIx s.cur.pos).val (max s.now k.vfree[(pipeIx s.cur.pos).val] + occ) })
    fields ds data side lat fp (fl.getD 0) (fun _ => rfl) (fun _ => rfl)
  unfold State.takePipe
  rw [e]
  constructor <;> simp [State.myCore, Core.setCtx]

/-! ### Exceptions -/

/-- R384, R385: a slot-precise exception with an installed handler. -/
theorem trapSlotVal_took (s : State) (e : Exc) (val : Word) (h : s.CanTrap) : TookTrap s (s.trapSlotVal e val) e val := by
  have he : s.trapSlotVal e val = (s.setMe (Ctx.enterTrap s.myCore s.me
      ⟨e, 0, s.cur.pos, s.cur.pos, s.cur.addr, val, 0, s.cur.overlay⟩)).modCur
        fun u => { u with stop := .trapped, cost := u.cost + 5 } := by
    have h1 := h.1
    have h2 := h.2
    unfold State.me at h1 h2
    unfold State.trapSlotVal State.trapEntry State.endTrapped
    simp [h1, h2, State.setMe, State.myCore, State.me]
  rw [he]
  have hme : ∀ v : Ctx, ((s.setMe v).modCur fun u => { u with stop := .trapped, cost := u.cost + 5 }).me = v :=
    fun v => State.me_setMe s v
  have hc : ∀ (e : Exc) (p : BitVec 3), (BitVec.ofNat 64 (e.code.toNat + p.toNat * 2 ^ 8 + p.toNat * 2 ^ 11
      + (0 : BitVec 2).toNat * 2 ^ 14 + (if e = .hwBreakpoint then 2 ^ 17 else 0) + (0 : BitVec 12).toNat * 2 ^ 20)).extractLsb' 0 8
      = e.code := by intro e; cases e <;> decide +kernel
  have hp : ∀ (e : Exc) (p : BitVec 3), (BitVec.ofNat 64 (e.code.toNat + p.toNat * 2 ^ 8 + p.toNat * 2 ^ 11
      + (0 : BitVec 2).toNat * 2 ^ 14 + (if e = .hwBreakpoint then 2 ^ 17 else 0) + (0 : BitVec 12).toNat * 2 ^ 20)).extractLsb' 8 3
      = p := by intro e; cases e <;> decide +kernel
  refine ⟨onlyCtx_set s _ _ _ _, ?_, ?_, ?_, ?_, ?_, ?_, ?_, ?_, ?_, ?_, ?_, ?_, ?_, rfl⟩
  all_goals simp only [hme, Ctx.enterTrap, frameOf]
  · exact hc e s.cur.pos
  · exact hp e s.cur.pos

theorem trapSlot_took (s : State) (e : Exc) (h : s.CanTrap) : TookTrap s (s.trapSlot e) e s.branchWord :=
  trapSlotVal_took s e s.branchWord h

end Sys2Proof.Machine
end

