-- ==== Sys2Proof/Tests/Slice0.lean ====
section
/-! SUPPORT. Tests/Slice0.lean: the refusals of wellFormed, words of the spec's encodings, single steps, and for each
statement with hypotheses states and operands that meet them. -/

namespace Sys2Proof.Tests
open Sys2Proof Sys2Proof.Machine

set_option maxRecDepth 100000
set_option Elab.async false

/-! ### Ill-formed terms, one for each check of wellFormed -/

theorem test_wf_guard : wellFormed (.emptyBundle false true 0) = false ∧ wellFormed (.emptyBundle false true 1) = true := by decide
theorem test_wf_skip_guard : wellFormed (.bundleSkip false 0 8) = false ∧ wellFormed (.bundleSkip false 1 8) = true := by decide
theorem test_wf_bytes : wellFormed (.bundleSkip false 1 0) = false ∧ wellFormed (.bundleSkip false 1 40) = false ∧
    wellFormed (.bundleSkip false 1 6) = false ∧ wellFormed (.bundleSkip false 1 36) = true := by decide
theorem test_wf_ld : wellFormed (.ld 1 2 3 true false none) = false ∧ wellFormed (.ld 1 2 2 true false none) = true := by decide
theorem test_wf_branch : wellFormed (.bri (.long 2)) = false ∧ wellFormed (.calli 1 (.long 1)) = false ∧
    wellFormed (.bri (.long 4)) = true := by decide
theorem test_wf_loop : wellFormed (.loop 1 false (.short 0)) = false ∧ wellFormed (.loop 1 false (.long 0)) = false ∧
    wellFormed (.loopp 1 false 2 (.short 0)) = false ∧ wellFormed (.loopp 1 false 2 (.long 0)) = false ∧
    wellFormed (.loopp 1 false 2 (.short 1)) = true := by decide
theorem test_wf_kind : wellFormed (.rd ⟨0, 5, .rdx, 0, false⟩ .slice) = false ∧ wellFormed (.rdx ⟨0, 5, .rd, 0, false⟩ .home) = false ∧
    wellFormed (.upg ⟨0, 5, .rd, 0, false⟩ 1 .home) = false ∧ wellFormed (.rd ⟨0, 5, .rd, 0, false⟩ .slice) = true := by decide
theorem test_wf_held : wellFormed (.upg ⟨0, 5, .upg, 0, false⟩ 257 .home) = false ∧ wellFormed (.upg ⟨0, 5, .upg, 0, false⟩ 256 .home) = true := by decide
theorem test_wf_rq : wellFormed (.cnv 1 515) = false ∧ wellFormed (.cfl 1 ⟨515, 0⟩) = false ∧ wellFormed (.cfl 1 ⟨0, 515⟩) = false ∧ wellFormed (.done 1 1023) = false ∧
    wellFormed (.pdone 1 515) = false ∧ wellFormed (.preq ⟨0, 515, .rd, 0, false⟩) = false ∧ wellFormed (.cnv 1 514) = true := by decide
theorem test_wf_tokens : wellFormed (.wb 1 0 false false) = false ∧ wellFormed (.wb 1 257 true false) = false ∧
    wellFormed (.wb 1 1 false true) = false ∧ wellFormed (.tok ⟨1, 5, 1, true, false, false, none⟩) = false ∧
    wellFormed (.tok ⟨1, 5, 256, true, true, true, none⟩) = true := by decide
theorem test_wf_line : ∀ i ∈ ([.rtn (2 ^ 42) 0, .wb (2 ^ 42) 1 false false, .wbWritePosted (2 ^ 42), .prel ⟨2 ^ 42, .home⟩, .cnv (2 ^ 42) 0,
    .fwd ⟨2 ^ 42, 5, .rd, 0, false⟩ .home, .pact ⟨2 ^ 42, 5, .rd, 0, false⟩ 0 .home, .done (2 ^ 42) 0, .cfl (2 ^ 42) ⟨0, 0⟩, .pdone (2 ^ 42) 0,
    .persistentConversion (2 ^ 42) 0, .persistentTimeout ⟨2 ^ 42, none⟩, .tokenRecreationComplete ⟨2 ^ 42, false⟩, .patrolScrub (2 ^ 42) .data,
    .hostCxlMemRead (2 ^ 42), .hostCxlMemWrite (2 ^ 42) 0 0, .cxlCacheSnoop (2 ^ 42) .invalidate, .failoverTokenSweep (2 ^ 42), .tok ⟨2 ^ 42, 5, 1, false, false, false, none⟩] : List Instr),
    wellFormed i = false := by decide

/-! ### Words of the encodings (R81 to R93), field by field -/

/-- A bundle of one slot: its header (R80) and its words. -/
def oneSlot (present surr : BitVec 8) (ws : List Word32) : Option Instr :=
  (decodeBundle ((present ++ surr ++ (0 : BitVec 16)) :: ws)).toOption.bind Bundle.single

/-- A slot word (R81): G.N, G, OP, D, A, B, MA, MB. -/
def word (n : BitVec 1) (g : BitVec 4) (op : BitVec 7) (d a b : BitVec 6) (ma mb : BitVec 1) : Word32 :=
  n ++ g ++ op ++ d ++ a ++ b ++ ma ++ mb

theorem test_decode_scalar : oneSlot 0x01 0 [word 0 0 0x02 3 4 5 1 0] = some (.sub 3 4 5 true false) ∧
    oneSlot 0x02 0 [word 1 7 0x0E 3 4 5 0 1] = some (.shr 3 4 5 false true) ∧
    oneSlot 0x01 0 [word 0 0 0x17 9 8 31 0 0] = some (.sext 9 8 31 false) ∧
    oneSlot 0x01 0 [word 0 0 0x22 1 2 0x3F 1 1] = some (.ori 1 2 (.short 0xFF)) := by decide +kernel
-- R136, R137: cond 2 with the optional word's U bit, and the 31-bit immediate in bits [31:1]
theorem test_decode_predicates : oneSlot 0x03 0x02 [word 0 0 0x30 0x24 6 7 0 0, 1] = some (.pcmp 4 .lt 6 7 false false (some true)) ∧
    oneSlot 0x03 0x02 [word 0 0 0x31 0x13 6 0 0 0, 0xFFFFFFFC] = some (.pcmpi 3 .ne 6 (.word false 0x7FFFFFFE)) ∧
    oneSlot 0x01 0 [word 0 0 0x35 1 2 3 0 0] = some (.pandn 1 2 3) := by decide +kernel
theorem test_decode_memory : oneSlot 0x03 0x02 [word 0 0 0x40 9 8 6 1 0, 0xFFFFFFF8] = some (.ld 9 8 2 true true (some 0xFFFFFFF8)) ∧
    oneSlot 0x01 0 [word 0 0 0x41 3 8 9 0 1] = some (.st 8 9 3 false true none) ∧
    oneSlot 0x01 0 [word 0 0 0x43 5 6 7 0 0] = some (.stsp 5 6 7 false false) := by decide +kernel
theorem test_decode_branches : oneSlot 0x01 0 [word 0 0 0x50 0 5 0 1 0] = some (.br 5 true) ∧
    oneSlot 0x03 0x02 [word 0 0 0x53 7 0 0 0 0, 0x100] = some (.calli 7 (.long 0x100)) ∧
    oneSlot 0x01 0 [word 0 0 0x56 2 9 8 0 0] = some (.loopp 9 false 2 (.short 8)) ∧
    oneSlot 0x03 0x02 [word 0 0 0x55 0 9 0 0 0, 0x1FFF] = some (.loop 9 false (.long 0x1FFF)) := by decide +kernel
-- R183: the words of the spec's example, VRED.SUM.ALL.RTZ v10, v11
theorem test_decode_vred : (decodeBundle [0x0C080000, 0x01E28B00, 0x00000030]).toOption.bind Bundle.single
    = some (.vred 10 11 false .sum .all .rtz) := by decide +kernel
theorem test_decode_vector : oneSlot 0x04 0 [word 0 0 0x15 0x2B 1 2 0 0] = some (.vcmp 3 .ge 1 2 false false) ∧
    oneSlot 0x0C 0x08 [word 0 0 0x1C 4 5 0 1 0, 0x0001FF86] = some (.vcvt 4 5 true (.plain .bf16) (.tap .t6) .rup 0x7F) ∧
    oneSlot 0x0C 0x08 [word 0 0 0x1D 4 5 0 0 0, 0x00042C09] = some (.vreq 4 5 false (.tap .t8) .shape .rne true 0x85) ∧
    oneSlot 0x04 0 [word 0 0 0x1F 4 5 0x0E 0 0] = some (.vscan 4 5 false .max true true) ∧
    oneSlot 0x08 0 [word 0 0 0x2C 5 2 0 0 0] = some (.ktop 5 2) ∧
    oneSlot 0x04 0 [word 0 0 0x2E 2 5 0 0 0] = some (.vsetix 2 5 false) := by decide +kernel
theorem test_decode_special : oneSlot 0x80 0 [word 0 0 0x43 1 2 0 0 0] = some (.frsq 1 2 false) ∧
    oneSlot 0x80 0 [word 0 0 0x47 1 2 0 1 0] = some (.fsigm 1 2 true) := by decide +kernel
theorem test_decode_tile : oneSlot 0x10 0 [word 0 0 0x01 7 5 0 0 0] = some (.tdesc 7 5 false) ∧
    oneSlot 0x30 0x20 [word 0 0 0x06 4 5 6 0 0, 0x00000003] = some (.tst 4 5 6 false false 3) ∧
    oneSlot 0x10 0 [word 0 0 0x09 0 5 6 0 0] = some (.imld 5 6 false false) := by decide +kernel
theorem test_decode_matrix : oneSlot 0x40 0 [word 0 0 0x06 8 0 1 0 0] = some (.mmaAd 8 0 1 false false) ∧
    oneSlot 0x40 0 [word 0 0 0x08 10 0 0 0 0] = some (.mzero 10) ∧
    oneSlot 0x40 0 [word 0 0 0x0C 9 0x22 0 0 0] = some (.mrd 9 2 true) := by decide +kernel
-- R228: CAS of 8 bytes, scope DIE, new value in s7; AMO.SWAP of 4 bytes, scope SYS
theorem test_decode_atomics : oneSlot 0xC0 0x40 [0x00000EB0, word 0 0 0x05 1 2 3 0 0] = some (.cas true .die 1 2 3 false false 7) ∧
    oneSlot 0xC0 0x40 [0x00000168, word 0 0 0x04 1 2 3 0 0] = some (.amo .swap false .sys 1 2 3 false false) := by decide +kernel
theorem test_decode_tasks : oneSlot 0x80 0 [word 0 0 0x0A 1 2 3 0 0] = some (.tspawn 1 2 3 false false) ∧
    oneSlot 0x80 0 [word 0 0 0x14 0 2 0 0 0] = some (.ffree 2 false) ∧
    oneSlot 0x80 0 [word 0 0 0x1E 0 2 3 0 0] = some (.bwait 2 3 false false) := by decide +kernel
theorem test_decode_system : oneSlot 0x80 0 [word 0 0 0x22 0 0x3F 0x01 0 0] = some (.trap 0xFC1) ∧
    oneSlot 0x80 0 [word 0 0 0x21 9 0 0x2F 0 0] = some (.sysw 9 0x02F) ∧ oneSlot 0x80 0 [word 0 0 0x23 0 0 0 0 0] = some .eret ∧
    oneSlot 0x80 0 [word 0 0 0x2A 1 2 3 0 0] = some (.imsum 1 2 3 false false) ∧
    oneSlot 0x80 0 [word 0 0 0x31 0 2 0 0 0] = some (.ctxsave 2 false) := by decide +kernel
-- R91, R93: reserved opcodes of each class, S1 without branches, VCMP's conditions 6 and 7
theorem test_reserved : oneSlot 0x01 0 [word 0 0 0x1D 0 0 0 0 0] = none ∧ oneSlot 0x02 0 [word 0 0 0x50 0 0 0 0 0] = none ∧
    oneSlot 0x04 0 [word 0 0 0x00 0 0 0 0 0] = none ∧ oneSlot 0x10 0 [word 0 0 0x0A 0 0 0 0 0] = none ∧
    oneSlot 0x40 0 [word 0 0 0x07 0 0 0 0 0] = none ∧ oneSlot 0x80 0 [word 0 0 0x27 0 0 0 0 0] = none ∧
    oneSlot 0x04 0 [word 0 0 0x15 0x30 1 2 0 0] = none ∧ oneSlot 0x01 0 [word 0 0 0x40 1 2 7 0 0] = none := by decide +kernel

/-! ### States -/

/-- A descriptor of 2 MiB of one-byte elements on device 0 (R192) with its table at a page. -/
def descriptor (id page : Nat) : Desc :=
  BitVec.ofNat 512 (id + 2 ^ 63 + 2 ^ 85 + 2 ^ 96 + 2 ^ 128 + 2 ^ 160 + page * 2 ^ 204)

/-- A task in the table. -/
def aTask : Task :=
  { id := 0, qdie := false, queue := 0, timedSeg := false, scan := none, tr := TaskRec.reset, st := .running, age := 0
    ran := true, charged := true, loc := some (0, 0), saved := none, infl := none, why := .none, asked := [], tried := []
    placed := 0, castOvr := false, notOn := [] }

/-- Scalars: s1 the address of a tracked byte, s2 = 3, s3 the address of a strongly-ordered one, s4 = 64, s5 all ones. -/
def someRegs : Vector Word 64 :=
  ((((Vector.replicate 64 0).set 1 0x1000000000000).set 2 3).set 3 0x2000000000000).set 4 64 |>.set 5 (BitVec.allOnes 64)

/-- The entries of tensors 1 and 2 in the tensor table, and the first leaf of each. -/
def tableCells : List Host.Cell :=
  [(0x2CFFC00040, 1), (0x2CFFC00047, 0x80), (0x2CFFC0004A, 0x20), (0x2CFFC0004C, 1), (0x2CFFC00050, 1), (0x2CFFC00054, 1), (0x2CFFC00059, 0x10)
  , (0x2CFFC00080, 2), (0x2CFFC00087, 0x80), (0x2CFFC0008A, 0x20), (0x2CFFC0008C, 1), (0x2CFFC00090, 1), (0x2CFFC00094, 1), (0x2CFFC00099, 0x20)]
def memWith (cells : List Host.Cell) : List Host.Cell :=
  [(4096, 0x33), (4100, 0x20), (8192, 0x17), (8196, 0x40)] ++ cells ++ tableCells

/-- Core 0 runs a task in context 0, its region open and its handler at 0; tensor 1 is tracked, tensor 2 strongly
ordered (R259). -/
def base : State :=
  let s := { State.reset with
    mem := memWith []
    dev := { Dev.reset with funcReady := 0x387FFFFFF }, tasks := [aTask] }
  (s.modCore 0 fun k => { k with ready := true }).modCtx 0 0 fun v => { v with
    occ := .running, task := some 0, opened := true, r := { v.r with s := someRegs }
    tr := { v.tr with tvec := 0x8000000000000000 } }

def meIs (f : Ctx → Ctx) : State := base.modMe f
def regsAre (f : Regs → Regs) : State := base.modRegs f
def coreIs (f : Core → Core) : State := base.modMyCore f
def devIs (f : Dev → Dev) : State := base.modDev f

/-- The commit before an X operation is done. -/
def committed : State := meIs fun v => { v with cm := ⟨.done, 0⟩, opened := false }
def supervisor : State := committed.modRegs fun r => { r with mode := true }
/-- An isolated supervisor bundle. -/
def isolated : State := supervisor.modCur fun u => { u with isolated := true }
/-- s6 is empty. -/
def holed : State := regsAre fun r => { r with sEmpty := 0x40 }

theorem witness_base : base.FullS 1 ∧ base.FullS 5 ∧ base.CanTrap ∧ ¬ holed.FullS 6 ∧ holed.FullS 1 ∧ holed.CanTrap ∧
    base.me.opened = true ∧ base.me.tr.installed = true ∧ base.me.ckpt.active = false ∧ Memory.wf base.mem = true := by
  simp only [State.FullS, State.CanTrap]; decide +kernel

/-! ### States and operands that meet the hypotheses of the statements -/

theorem witness_DecodeOfEncode : ∀ i ∈ ([.sub 3 4 5 true false, .movi 9 (.wide 7), .vadd 1 2 3 false true, .tld 4 5 6 false false 7,
    .mzero 8, .cas true .sys 1 2 3 false false 4, .bri (.long 4)] : List Instr),
    wellFormed i = true ∧ (encodeSlot i).isSome = true ∧ encode i ≠ [] := by decide +kernel

theorem witness_EncodeOfDecode :
    (decodeAt 0 (Fields.ofWord 0x0010C414) []).toOption = some (.add 3 4 5 false false) ∧
    (decodeAt 5 (Fields.ofWord 0x00210518) [7]).toOption = some (.tld 4 5 6 false false 7) ∧
    (decodeAt 7 (Fields.ofWord 0x02028050) []).toOption = some (.sysr 10 0x014) := by decide +kernel

theorem witness_BadHeaderRejected : (0x01000001 : Word32).extractLsb' 0 10 ≠ 0 ∧
    ((0x01004000 : Word32).getLsbD 14 = true ∧ (0x01004000 : Word32).extractLsb' 10 4 = 0) ∧
    ((0x01010000 : Word32).extractLsb' 0 10 = 0 ∧ (0x01010000 : Word32).getLsbD 14 = false ∧ (0x01010000 : Word32).getLsbD 16 = true) ∧
    ((0x01020000 : Word32).extractLsb' 16 8 &&& ~~~((0x01020000 : Word32).extractLsb' 24 8) ≠ 0) := by decide

/-- Core 0's turn is next; its bundle is ADD s2, s2, s2. -/
def fetches : State := { coreIs fun k => { k with scratch := cellWrite [] 0 [0, 0, 0, 1, 8, 0x82, 0x10, 0] } with agenda := [⟨0, .core 0⟩] }

theorem witness_StepRunsDecoded :
    let s1 := ({ fetches with agenda := [] }.pass 0)
    let s2 := (s1.engines 0).modCur fun _ => Cur.idle 0 0
    fetches.dev.sharedStop = false ∧ fetches.agenda = [⟨0, .core 0⟩] ∧ (s1.coreAt 0).ready = true ∧
    ((s1.engines 0).coreAt 0).order4.head? = some 0 ∧ s2.me.occ = .running ∧ s2.me.halted = false ∧
    s2.me.cm.phase = .idle ∧ s2.heldOff 0 0 = false ∧ s2.me.stale = [] ∧ s2.me.reslot = none ∧
    crossesHalf s2.me.r.pc 8 = false := by decide +kernel

theorem witness_StepRunsDecoded_issue :
    let s2 := (({ fetches with agenda := [] }.pass 0).engines 0).modCur fun _ => Cur.idle 0 0
    let sl : Slot := ⟨0, false, 0, .add 2 2 2 false false⟩
    let h := Header.ofWord 0x01000000
    let s3 := s2.startBundle h
    let e := s3.see s3.me.names sl [] 0 s3.me.r.p
    (decodeBundle (wordsOf (s2.myCore.textAt s2.me.r.pc))).toOption.map (fun b => (b.slots, b.hdr)) = some ([sl], h) ∧ h.bytes = 8 ∧
    s2.me.passesOver h = false ∧ s2.me.endsRegion h = false ∧ e.blocks = false ∧ e.ordered = false ∧ e.heldBack = false ∧
    e.pipeBusy = false ∧ s3.bpMatch = false ∧ s3.straddles h.bytes = false ∧ guardHolds s3.me.r sl = true ∧ e.stopped = false := by
  decide +kernel

theorem witness_StepRunsDecoded_exec : ∃ t, exec (.add 2 2 2 false false) fetches = .next t := ⟨_, rfl⟩

theorem witness_Scalar : base.FullS 2 ∧ base.FullS 4 ∧ base.FullS 0 ∧ base.valS 2 = 3 ∧ base.valS 0 = 0 ∧
    base.valS 5 = BitVec.allOnes 64 := by
  simp only [State.FullS]; decide +kernel

theorem witness_EmptyAndHardwiredRegisters : ¬ holed.FullS 6 ∧ holed.CanTrap ∧ (holed.FullS 1 ∧ ¬ holed.FullS 6) ∧
    ((regsAre fun r => { r with inui := true }).me.r.inui = true ∧ 56 ≤ (56 : SReg).toNat) ∧
    (base.me.r.inui = false ∧ (63 : SReg) ≠ 0) := by
  simp only [State.FullS, State.CanTrap]; decide +kernel

/-- The keys of an access of n bytes at s1 (tracked) or s3 (strongly ordered), if all can be reached. -/
def keys (store : Bool) (a : SReg) (off : Option Word32) (n : Nat) : Option (List (Nat × PageKind)) :=
  (base.keysOf store (base.accessOf a off n)).toOption

-- the last byte of the tensor is reached with offset 0x1FFFFF, the byte behind it is not
theorem witness_LoadsAndStores :
    keys false 1 none 1 = some [(0x200000, .tracked 0)] ∧ keys true 1 (some 0x1FFFFE) 2 = some [(0x3FFFFE, .tracked 0), (0x3FFFFF, .tracked 0)] ∧
    State.hasOrdered [(0x200000, .tracked 0)] = false ∧
    base.accessWaits false [(0x200000, .tracked 0)] = false ∧ base.accessWaits true [(0x3FFFFE, .tracked 0), (0x3FFFFF, .tracked 0)] = false ∧
    (base.modCoh fun h => { h with lines := [(0x8000, { LineSt.reset with rats := [0], lent := [0] })] }).accessWaits true [(0x200000, .tracked 0)] = true ∧
    (meIs fun v => { v with guarded := true }).accessWaits false [(0x200000, .tracked 0)] = true ∧
    base.myCore.gateUsed ≤ Config.gateCore ∧ base.myCore.ratUsed ≤ Config.ratCore ∧
    (keys true 3 none 4).map State.hasOrdered = some true ∧ tensorByte (base.valS 3).toNat 0 0 % 4 = 0 ∧
    tensorByte (base.valS 3).toNat 1 0 % 4 ≠ 0 ∧ (keys false 3 (some 1) 4).map State.hasOrdered = some true := by decide +kernel

/-- Tensor 3 lies on device 3, to which there is a route. -/
def away : State := { base with
  mem := base.mem ++ [(0x2CFFC000C0, 3), (0x2CFFC000C3, 0x30), (0x2CFFC000C7, 0x80), (0x2CFFC000CA, 0x20), (0x2CFFC000CC, 1), (0x2CFFC000D0, 1)
    , (0x2CFFC000D4, 1)]
  dev := { base.dev with routes := [(3, 0, 1)] } }

theorem witness_LoadsAndStores_away :
    (away.keysOf true [0x3000000000000]).toOption = some [(remoteKey 3 0x3000000000000, .remote)] ∧
    State.hasOrdered [(remoteKey 3 0x3000000000000, .remote)] = false ∧ away.accessWaits true [(remoteKey 3 0x3000000000000, .remote)] = false ∧
    away.me.opened = true ∧ away.me.tr.installed = true ∧ away.me.ckpt.active = false ∧
    (base.remoteRefused [(0x200000, .tracked 0)]).1 = none := by decide +kernel
/-- Whether the other device refuses is the free choice. -/
theorem witness_LoadsAndStores_choice : (away.remoteRefused [(remoteKey 3 0x3000000000000, .remote)]).1 =
    if Config.freeBool 0 = true then some 0x3000000000000 else none := by
  rw [State.remoteRefused, show remoteFirsts [(remoteKey 3 0x3000000000000, .remote)] = [remoteKey 3 0x3000000000000] by decide, State.refusedAt,
    show away.reachable (remoteDev (remoteKey 3 0x3000000000000)).toNat = true by decide +kernel,
    show remoteAddr (remoteKey 3 0x3000000000000) = 0x3000000000000 by decide]
  cases h : Config.freeBool 0 <;> simp [State.freshBool, State.refusedAt, show away.free = 0 from rfl, h]

def refused (e : Except Nat (List (Nat × PageKind))) : Option Nat :=
  match e with
  | .error a => some a
  | .ok _ => none

theorem refused_eq {e : Except Nat (List (Nat × PageKind))} {a : Nat} (h : refused e = some a) : e = .error a := by
  cases e with
  | error b => rw [Option.some.inj h]
  | ok k => exact nomatch h

theorem witness_AccessExceptions : (base.FullS 4 ∧ base.CanTrap) ∧ base.me.opened = true ∧ base.me.tr.installed = true ∧
    base.me.ckpt.active = false ∧ base.keysOf false (base.accessOf 4 none 1) = .error 64 ∧
    base.keysOf true (base.accessOf 1 (some 0x1FFFFF) 2) = .error 0x1000000200000 := by
  simp only [State.FullS, State.CanTrap]; exact ⟨by decide +kernel, by decide +kernel, by decide +kernel, by decide +kernel, refused_eq (by decide +kernel), refused_eq (by decide +kernel)⟩

theorem witness_SpillStore : Memory.wf base.me.spill = true ∧
    (base.valS 0 + BitVec.ofNat 64 (8 * (63 : BitVec 6).toNat)).toNat % 8 = 0 ∧ (base.valS 0).toNat + 8 * 63 + 7 ≤ 4095 ∧
    (base.valS 2).toNat % 8 ≠ 0 ∧ ¬ (base.valS 5).toNat + 7 ≤ 4095 := by decide +kernel

/-- A loop level whose last bundle is the one being issued. -/
def level : LoopLevel := ⟨0, 0, 2, 2, 1, false, false⟩

theorem witness_Branches : base.inLastBundle = false ∧ (base.FullS 4 ∧ (base.valS 4).toNat % 4 = 0) ∧ (base.valS 2).toNat % 4 ≠ 0 ∧
    (regsAre fun r => { r with loops := [level] }).inLastBundle = true := by
  simp only [State.FullS]; decide +kernel

theorem witness_Loops : base.FullS 4 ∧ 0 < (base.valS 4).toNat ∧ (base.valS 4).toNat < 2 ^ 32 ∧ base.me.r.loops.length < 4 ∧
    (base.valS 0).toNat = 0 ∧ 2 ^ 32 ≤ (base.valS 5).toNat ∧
    (regsAre fun r => { r with loops := [level, level, level, level] }).me.r.loops.length = 4 ∧
    base.preemptible base.cur.core base.cur.ctx = false ∧ base.cur.br = none ∧ base.me.r.loops = [] ∧ level.stop = base.cur.next ∧
    level.drain = false ∧ 1 < level.kernel ∧ { level with pipelined := true }.pipelined = true ∧ { level with stop := 8 }.stop ≠ base.cur.next ∧
    { level with kernel := 1 }.kernel = 1 := by
  simp only [State.FullS]; decide +kernel

/-- The levels of context 0, with a pre-emption request or none, and the stage predicates given. -/
def looping (ls : List LoopLevel) (req : Bool) (p : BitVec 16) : State := meIs fun v => { v with
  preemptReq := req, r := { v.r with loops := ls, p := p } }
def pipe : LoopLevel := { level with pipelined := true }

theorem witness_Loops_turn : (∀ ls ∈ ([[level], [pipe], [{ level with kernel := 1 }, level], [{ pipe with kernel := 1 }, level]
      , [{ level with kernel := 1 }], [{ level with stop := 8 }]] : List (List LoopLevel)),
      let s := looping ls false 0x101
      s.loopReq s.cur.core s.cur.ctx = false ∧ s.cur.br = none ∧ s.me.r.loops = ls) ∧
    (∀ ls ∈ ([[level], [pipe]] : List (List LoopLevel)), let s := looping ls true 0x101
      s.preemptible s.cur.core s.cur.ctx = true ∧ s.cur.br = none ∧ s.me.r.loops = ls) ∧
    -- with p8 true a stage is left after the rotation, with p8 false none is
    (rotateP 0x101 2 false).getLsbD 9 = true ∧ (rotateP 0x001 2 false).getLsbD 9 = false ∧
    1 ≤ pipe.stages.toNat ∧ 1 < pipe.kernel ∧ pipe.stop = base.cur.next ∧ ({ pipe with drain := true }).drain = true := by decide +kernel

theorem witness_BundlesThatDoNothing : base.me.r.loops = [] ∧ base.cur.stop = .going ∧ base.cur.br = none ∧ base.me.stale = [] ∧
    base.me.reslot = none ∧ (base.me.predAge[(1 : PReg).toNat]) < 3 ∧
    (let s := coreIs fun k => { k with scratch := [(1, 4)] }
     let h := Header.ofWord ((wordsOf (s.myCore.textAt s.me.r.pc)).headD 0)
     h.cg ≠ 0 ∧ s.me.r.getP h.cg = h.cgn) := by decide +kernel

theorem witness_CommitFirst : base.me.opened = true ∧ base.me.cm.phase = .idle ∧ committed.me.opened = false ∧ base.me.r.active = false ∧
    base.FullS 2 ∧ futIndex ((base.valS 2).extractLsb' 0 32) ≠ 0 ∧ castBad ((base.valS 2).extractLsb' 0 32) = false ∧
    (base.valS 2).extractLsb' 7 57 = 0 ∧ (base.valS 4).toNat % 8 = 0 ∧
    (regsAre fun r => { r with mode := true }).me.r.mode = true ∧ (sysLevel 0x020).isSome = true ∧ (sysLevel 0x03F).isSome = true ∧
    (let s := (regsAre fun r => { r with mode := true }).modCur fun u => { u with isolated := true }
     s.me.cm.phase = .idle ∧ s.me.r.mode = true ∧ s.cur.isolated = true ∧ s.FullS 2) := by
  simp only [State.FullS]; decide +kernel

/-- A commit at the end of its horizon wait, with one byte in its gate, and the core's tokens for its line. -/
def atHorizon : State := (meIs fun v => { v with cm := ⟨.horizon, 90⟩, gate := [⟨0x200000, 0, 7⟩] }).modMyCore fun k => { k with cycle := 200 }
def holdsLine : State := atHorizon.modCoh fun h => { h with lines := [(0x8000, { LineSt.reset with home := Hold.none, l1d := [(0, ⟨256, true, false, true⟩)] })] }

/-- The same, past its confirmation. -/
def merging : State := holdsLine.modMe fun v => { v with cm := ⟨.merge, 96⟩ }

theorem witness_CommitMakesVisible : Memory.wf holdsLine.mem = true ∧ (holdsLine.ctxAt 0 0).cm.phase = .horizon ∧
    (holdsLine.ctxAt 0 0).cm.hEnd ≤ (holdsLine.coreAt 0).cycle ∧ atHorizon.confirmed 0 0 = false ∧ holdsLine.confirmed 0 0 = true ∧
    holdsLine.poisonedPart 0 0 = none ∧
    ((merging.ctxAt 0 0).cm.phase = .merge ∧ (merging.ctxAt 0 0).cm.hEnd < (merging.coreAt 0).cycle ∧ merging.allLines 0 0 = true ∧ (merging.ctxAt 0 0).after = .none ∧
      (merging.ctxAt 0 0).soStores = [] ∧ merging.homeBusy 0 0 = false ∧ Memory.wf merging.mem = true) := by decide +kernel

theorem witness_CommitAndFences : committed.Committed ∧
    ((committed.modMe fun v => { v with waitWindow := some 0 }).remoteQuiet 0 0 = true ∧ committed.me.hostUnacked = 0) ∧
    ((committed.modDev fun d => { d with tb := { d.tb with locked := true } }).dev.tb.locked = true ∧ committed.me.waitWindow = none) ∧
    (0 ≤ committed.window ∧ committed.window < committed.me.commitWin + 2) := by
  simp only [State.Committed]; decide +kernel

/-- The same with every token of the first line of tensor 1 at core 0. -/
def owns (s : State) : State :=
  s.modCoh fun h => { h with lines := [(0x8000, { LineSt.reset with home := Hold.none, l1d := [(0, ⟨256, true, false, true⟩)] })] }

theorem witness_AtomicsOnMemory : Memory.wf committed.mem = true ∧ (committed.FullS 1 ∧ committed.FullS 2) ∧ committed.Committed ∧
    (committed.valS 1).toNat % 8 = 0 ∧
    ((owns committed).keysOf true ((List.range 4).map fun i => tensorByte (committed.valS 1).toNat 0 i)).toOption =
      some [(0x200000, .tracked 0), (0x200001, .tracked 0), (0x200002, .tracked 0), (0x200003, .tracked 0)] ∧
    lineOf 0x200000 ∉ (owns committed).coh.poison ∧
    (owns committed).lineReady committed.cur.core committed.cur.ctx (lineOf 0x200000) = true ∧
    committed.me.infl.bind (·.key) = none ∧
    ((meIs fun v => { v with infl := some ⟨.nop, 0, 0, none, [], false, some (0x200000, .tracked 0), none⟩ }).me.infl.bind (·.key) =
      some (0x200000, .tracked 0)) := by
  simp only [State.FullS, State.Committed]; decide +kernel

/-- A task that waits for a context. -/
def waitingTask : Task := { aTask with id := 1, st := .ready, ran := false, loc := none, tr := { TaskRec.reset with img := some 1 } }

/-- The other contexts of core 0 run, a task waits. Context 1 of an isolated bundle's core has a partition of one unit and a save area in tensor 1, which holds a task's
image: format 1, SIZE 1, a legal shape and four legal index registers (R248). -/
def withArea (occ : Occ) : State :=
  let s := (isolated.modMyCore fun k => { k with
    dfPart := k.dfPart.set 1 0x104, saveBase := k.saveBase.set 1 0x1000000000000 }).modCtx 0 1 fun v => { v with occ := occ, task := none }
  let s := (s.modCtx 0 2 fun v => { v with occ := .running }).modCtx 0 3 fun v => { v with occ := .running }
  { s with tasks := [aTask, waitingTask], mem := memWith [(0x200000, 1), (0x200001, 1), (0x200040, 0x10), (0x200041, 0x20), (0x200042, 0x70), (0x200062, 0x20)
    , (0x20006A, 0x20), (0x200072, 0x20), (0x20007A, 0x20)] }

def sRegIs (s : State) (n : SReg) (v : Word) : State := s.modRegs fun r => { r with s := r.s.set n.toNat v n.isLt }

/-- The lines of the area, if all can be reached: 1,216 of them from the frame of tensor 1. -/
def areaAt (s : State) (store : Bool) : Option (List Nat) := (s.areaOf 0x1000000000000 1 store).toOption

/-- Tensor 1 is mapped as in the states here, and every channel is ready. -/
structure MapsFirst (s : State) : Prop where
  desc : s.descOf 1 = descriptor 1 1
  dev : s.dev.devNo.toNat = 0
  leaf : cellNat s.mem 4096 8 = 0x2000000033
  leafOk : s.leafOk true (Leaf.ofNat 0x2000000033) = true
  bytes : s.dmBytes = 193273528320
  channels : ∀ i < 24, s.dev.funcReady.getLsbD i = true
  table : s.memReady 4096 = true
  entry : s.memReady (descAddr 1) = true

/-- Every byte of tensor 1 is tracked, in order from its frame. -/
theorem MapsFirst.byteKey {s : State} (f : MapsFirst s) (b : Nat) (h : b < 2 ^ 21) (store : Bool) :
    s.byteKey (0x1000000000000 + b) store = some (0x200000 + b, .tracked 0) := by
  have e1 : (0x1000000000000 + b) / 2 ^ 48 % 65536 = 1 := by omega
  have e2 : (0x1000000000000 + b) % 2 ^ 48 = b := by omega
  have v : (descriptor 1 1).valid = true ∧ (descriptor 1 1).device = 0 ∧ (descriptor 1 1).size = 2 ^ 21 ∧
      (descriptor 1 1).root = 1 := by decide +kernel
  have e3 : b / 2 ^ 21 = 0 := by omega
  have e4 : b % 2 ^ 21 = b := by omega
  have l : (Leaf.ofNat 0x2000000033).frame = 32 ∧ (Leaf.ofNat 0x2000000033).w = true ∧ (Leaf.ofNat 0x2000000033).kind = .tracked 0 := by
    decide +kernel
  have rg : s.rangeOf (0x200000 + b) = .device := by
    unfold State.rangeOf; rw [f.bytes, if_pos (by omega)]
  have mr : s.memReady (0x200000 + b) = true := by
    unfold State.memReady; rw [rg]; exact f.channels _ (Nat.mod_lt _ (by decide))
  have w : s.walk (descriptor 1 1) b = .ok (0x200000 + b) (Leaf.ofNat 0x2000000033) := by
    unfold State.walk Desc.firstAddr
    simp only [v.2.2.2, e3, e4, Nat.mul_zero, Nat.add_zero, f.leaf, f.leafOk, l.1]
    simp [mr, f.table, show bitAt 0x2000000033 0 = true from by decide, show bitAt 0x2000000033 4 = true from by decide]
  unfold State.byteKey State.translate
  simp only [e1, e2, f.desc, v.1, v.2.1, v.2.2.1, f.dev, w, f.entry]
  simp [l.2.1, l.2.2, show ¬ 2097152 ≤ b by omega]

theorem withArea_maps (occ : Occ) : MapsFirst (withArea occ) := by
  cases occ <;> exact ⟨by decide +kernel, by decide +kernel, by decide +kernel, by decide +kernel, by decide +kernel, by decide +kernel, by decide +kernel, by decide +kernel⟩

theorem areaLines_area (occ : Occ) (store : Bool) (is : List Nat) (h : ∀ i ∈ is, i < 2 ^ 15) :
    (withArea occ).areaLines 0x1000000000000 store is = .ok (is.map fun i => 0x200000 + 64 * i) := by
  induction is with
  | nil => rfl
  | cons i is ih =>
    have hi := h i (by simp)
    have at_ : ∀ j < 64, tensorByte 0x1000000000000 (64 * i : Nat) j = 0x1000000000000 + (64 * i + j) := by
      intro j hj; unfold tensorByte wrapTo; omega
    have none_ : (withArea occ).refusedByte 0x1000000000000 i store = none := by
      unfold State.refusedByte
      rw [List.find?_eq_none]
      intro a ha
      obtain ⟨j, hj, rfl⟩ := List.mem_map.1 ha
      rw [List.mem_range] at hj
      rw [at_ j hj, (withArea_maps occ).byteKey (64 * i + j) (by omega) store]
      simp [PageKind.isTracked]
    have k := (withArea_maps occ).byteKey (64 * i) (by omega) store
    rw [← Nat.add_zero (64 * i), ← at_ 0 (by decide)] at k
    have l : (withArea occ).areaLine 0x1000000000000 i store = .ok (0x200000 + 64 * i) := by
      simp only [State.areaLine, none_, Option.elim_none]
      rw [k]
      rfl
    rw [State.areaLines, l, ih fun i hi => h i (by simp [hi])]
    rfl

theorem witness_area (occ : Occ) (store : Bool) :
    (withArea occ).areaOf 0x1000000000000 1 store = .ok ((List.range 1216).map fun i => 0x200000 + 64 * i) := by
  have n : areaSize 1 / 64 = 1216 := by decide
  rw [State.areaOf, n]
  exact areaLines_area occ store _ fun i hi => by have := List.mem_range.1 hi; omega

theorem witness_ContextSave :
    ((sRegIs (withArea .parked) 6 1).FullS 6 ∧ (sRegIs (withArea .parked) 6 1).valS 6 = (1 : CtxId).setWidth 64) ∧
    (withArea .parked).Committed ∧ (withArea .parked).me.r.mode = true ∧ (withArea .parked).cur.isolated = true ∧
    (1 : CtxId) ≠ (withArea .parked).cur.ctx ∧ ((withArea .parked).myCore.ctxAt 1).occ = .parked ∧
    (withArea .parked).myCore.fillsOf 1 = false ∧ (withArea .parked).myCore.saveBase[1] = 0x1000000000000 ∧
    (withArea .parked).myCore.partUnits 1 = 1 ∧ Memory.wf (withArea .parked).mem = true ∧
    Memory.wf ((withArea .parked).myCore.ctxAt 1).spill = true ∧ Memory.wf (withArea .parked).myCore.df = true ∧
    Memory.wf (withArea .parked).myCore.side = true := by
  simp only [State.FullS, State.Committed]; decide +kernel

theorem witness_ContextSave_lines : ((List.range 1216).map fun i => 0x200000 + 64 * i).Nodup ∧
    ∀ p ∈ (List.range 1216).map fun i => 0x200000 + 64 * i, p % 64 = 0 := by
  refine ⟨List.Nodup.map (fun a b h => ?_) List.nodup_range, fun p h => ?_⟩
  · simpa using h
  · obtain ⟨i, -, rfl⟩ := List.mem_map.1 h; omega

theorem witness_ContextLoad : (withArea .free).me.r.mode = true ∧ ((withArea .free).myCore.ctxAt 1).occ = .free ∧
    Memory.wf (withArea .free).mem = true ∧ imageOk 1 [] = false ∧
    ((withArea .free).modCoh fun h => { h with poison := [0x8001] }).areaPoison 0x1000000000000 [0x200000, 0x200040] = some 0x1000000000040 := by
  decide +kernel

theorem witness_ContextLoad_poison (pas : List Nat) : (withArea .free).areaPoison 0x1000000000000 pas = none := by
  rw [State.areaPoison, List.find?_eq_none.2]
  · rfl
  · intro p _; exact Bool.false_ne_true

theorem witness_AreaTraps : ((withArea .parked).FullS 2 ∧ (withArea .parked).CanTrap) ∧ committed.me.r.mode = false ∧
    ((withArea .parked).me.r.mode = true ∧ (withArea .parked).cur.isolated = true) ∧
    ¬ ((withArea .parked).valS 5).toNat < 4 ∧ (0 : CtxId) = (withArea .parked).cur.ctx ∧ (withArea .parked).myCore.saveBase[2] = 0 ∧
    ((sRegIs (withArea .free) 6 1).valS 6).toNat < 4 ∧ ((withArea .free).myCore.ctxAt 1).occ ≠ .parked ∧
    ((withArea .parked).myCore.ctxAt 1).occ ≠ .free ∧
    ((withArea .parked).refusedByte 0x3000000000000 0 true = some 0x3000000000000) := by
  simp only [State.FullS, State.CanTrap]; decide +kernel

/-- A future table of 16 entries: entry 1 pending, 2 ready, 3 failed, 4 pending with a waiter; entry 5 freed. -/
def futures : State := { committed with fut := { size := some 16, next := 6, freed := [5], ents :=
  [(1, ⟨0, 0, .pending, []⟩), (2, ⟨7, 0, .ready, []⟩), (3, ⟨0, 0, .failed, []⟩), (4, ⟨0, 0, .pending, [.dep 3]⟩), (5, ⟨0, 1, .empty, []⟩)] } }

theorem witness_Futures : futures.Committed ∧ (futures.FullS 2 ∧ futures.CanTrap) ∧ futIndex ((futures.valS 2).extractLsb' 0 32) ≠ 0 ∧
    futures.futLook 1 = .ok ⟨0, 0, .pending, []⟩ ∧ futures.futLook 2 = .ok ⟨7, 0, .ready, []⟩ ∧
    futures.futLook (futures.valS 2 |>.extractLsb' 0 32) = .ok ⟨0, 0, .failed, []⟩ ∧ futures.futLook 15 = .stale ∧
    futures.futLook 16 = .range ∧ futures.futLook (futHandle 1 1) = .stale ∧ futIndex (futHandle 3 0) = 0 ∧
    futures.fut.freed = [5] ∧ assoc futures.fut.ents 5 = some ⟨0, 1, .empty, []⟩ ∧
    committed.fut.freed = [] ∧ committed.fut.size.getD 0 ≤ committed.fut.next := by
  simp only [State.FullS, State.CanTrap, State.Committed]; decide +kernel

/-- Cast 3: the running task 0 is its only member, awaited and not arrived; cast 4 is freed; cast 5 has another member. -/
def casts : State := { committed with casts := { next := 6, freed := [4], ents :=
  [(3, ⟨true, 0, [0], 5, [0], [], 0, false⟩), (4, ⟨false, 1, [], 0, [], [], 0, false⟩), (5, ⟨true, 0, [1], 5, [1], [], 0, false⟩)] } }

theorem witness_Casts : casts.Committed ∧ (casts.FullS 2 ∧ casts.CanTrap) ∧ castBad ((casts.valS 2).extractLsb' 0 32) = false ∧
    casts.me.task.getD 0 = 0 ∧ casts.castLook 3 = some ⟨true, 0, [0], 5, [0], [], 0, false⟩ ∧
    (casts.castLook 5).map (fun e => decide (0 ∉ e.members ∧ e.members.length < 512)) = some true ∧
    (casts.valS 2).extractLsb' 32 32 = 0 ∧ (0 : Nat) + (casts.valS 2).toNat < 2 ^ 32 ∧
    (1 ≤ ((5 : BitVec 32) - 4).toNat ∧ ((5 : BitVec 32) - 4).toNat < 2 ^ 31) ∧ ¬ 1 ≤ ((5 : BitVec 32) - 5).toNat ∧
    casts.casts.freed = [4] ∧ assoc casts.casts.ents 4 = some ⟨false, 1, [], 0, [], [], 0, false⟩ ∧
    (committed.casts.freed = [] ∧ committed.casts.next < 4096) ∧
    4096 ≤ ({ committed with casts := ⟨[], [], 4096⟩ } : State).casts.next := by
  simp only [State.FullS, State.CanTrap, State.Committed]; decide +kernel

/-- Context 0 waits in BWAIT on cast 3 for the phase in s4. -/
def waits : State := casts.modMe fun v => { v with
  waitCast := some 3, infl := some ⟨.bwait 2 4 false false, 0, 0, none, [], false, none, none⟩
  r := { v.r with s := v.r.s.set 4 4 } }

theorem witness_Casts_release : (waits.ctxAt 0 0).waitCast = some 3 ∧ (waits.castLook 3).isSome = true ∧
    (waits.ctxAt 0 0).infl = some ⟨.bwait 2 4 false false, 0, 0, none, [], false, none, none⟩ ∧
    1 ≤ ((5 : BitVec 32) - ((waits.ctxAt 0 0).r.getS 4).extractLsb' 0 32).toNat := by decide +kernel

theorem witness_TaskControl : futures.Committed ∧ futures.me.r.active = false ∧ futures.me.task = some 0 ∧
    futures.taskAt 0 = some aTask ∧ aTask.id = 0 ∧ futures.me.r.loops = [] ∧ futures.cur.br = none ∧ futures.myCore.timed = false ∧
    futures.fillsOut = false ∧ futures.resultsOut = false ∧ aTask.scan = none ∧
    (let t := { aTask with tr := { aTask.tr with res := 1 } }
     futures.futLook t.tr.res = .ok ⟨0, 0, .pending, []⟩ ∧ futIndex t.tr.res ≠ 0) := by
  simp only [State.Committed]; decide +kernel

/-- Die 0 has the queue 3, with an image of one line loaded, and a record in tensor 1 that names it. -/
def spawns (cap : Nat) : State :=
  let s := committed.modQueue false 3 fun q => { q with active := true, cap := BitVec.ofNat 16 cap }
  { s with
    images := [⟨1, 1, false, List.replicate 64 0, none, [], 0, 0⟩]
    mem := memWith [(0x200000, 1), (0x200002, 1)] }

theorem witness_TaskControl_spawn : ((spawns 1).FullS 1 ∧ (spawns 1).FullS 2) ∧ ((spawns 1).valS 2).extractLsb' 7 57 = 0 ∧
    ((spawns 1).valS 2).extractLsb' 0 6 = (3 : BitVec 6) ∧
    (spawns 1).queueUp false 3 = true ∧ (spawns 1).queueUp false 4 = false ∧
    ((spawns 0).queueAt false 3).cap.toNat ≤ (spawns 0).queueCount false 3 ∧
    (spawns 1).queueCount false 3 < ((spawns 1).queueAt false 3).cap.toNat ∧ (spawns 1).tableCount false < 16384 ∧
    (spawns 1).Committed := by
  simp only [State.FullS, State.Committed]; decide +kernel

/-- The record's line, held by core 0 with its data; the read of its first two bytes, then of all six. -/
def holdsRecord : State := (spawns 1).modCoh fun h => { h with lines := [(0x8000, { LineSt.reset with rats := [0], port := [0] })] }
def readBytes (s : State) (keys : List (Nat × PageKind)) : List Byte × State :=
  let u := (s.pinAll s.cur.core s.cur.ctx .engine true (trackedLines keys)).2
  ((u.recordBytes s.cur.core s.cur.ctx keys).spaceRule s.cur.core s.cur.ctx).loadBytes s.cur.core s.cur.ctx false 0 keys
def keysFrom (n : Nat) : List (Nat × PageKind) := (List.range n).map fun i => (0x200000 + i, .tracked 0)
def maskRead : State := (readBytes holdsRecord (keysFrom 2)).2
def recordRead : State :=
  let v := (readBytes maskRead (keysFrom 6)).2
  let w := v.clearPort v.cur.core (trackedLines (keysFrom 6))
  w.releasePins w.cur.core w.cur.ctx

def keysIn (e : Except Nat (Option (List (Nat × PageKind)))) : Option (List (Nat × PageKind)) :=
  match e with
  | .ok k => k
  | .error _ => none
theorem keysIn_eq {e : Except Nat (Option (List (Nat × PageKind)))} {k : List (Nat × PageKind)} (h : keysIn e = some k) : e = .ok (some k) := by
  cases e with
  | error b => exact nomatch h
  | ok j => exact congrArg Except.ok h

theorem readBytes_spawn {s : State} {keys : List (Nat × PageKind)} {bs : List Byte}
    (room : s.spaceWaits s.cur.core s.cur.ctx false keys = false)
    (pins : (s.pinAll s.cur.core s.cur.ctx .engine true (trackedLines keys)).1 = true) (h : (readBytes s keys).1 = bs)
    (k : List Byte → State → State) : s.spawnBytes keys k = k bs (readBytes s keys).2 :=
  State.spawnBytes_held room (Prod.ext pins rfl) (Prod.ext h rfl) k

theorem witness_TaskControl_read : holdsRecord.ReadsRecord (holdsRecord.valS 1).toNat (some [1, 0, 1, 0, 0, 0]) recordRead :=
  State.readsRecord_held (mask := keysFrom 2) (keys := keysFrom 6) (m := [1, 0]) (u := maskRead) (v := (readBytes maskRead (keysFrom 6)).2)
    (by decide +kernel) (keysIn_eq (by decide +kernel)) (fun k => readBytes_spawn (by decide +kernel) (by decide +kernel) (by decide +kernel) k)
    (keysIn_eq (by decide +kernel)) (fun k => readBytes_spawn (by decide +kernel) (by decide +kernel) (by decide +kernel) k)

theorem witness_TaskControl_record : let v := (recordRead.spawnBound (holdsRecord.valS 1).toNat).2
    v.queueUp false 3 = true ∧ v.queueCount false 3 < (v.queueAt false 3).cap.toNat ∧ v.tableCount false < 16384 ∧
    v.recordOk (expandRecord (v.queueAt false 3).base [1, 0, 1, 0, 0, 0]) false = true := by decide +kernel

theorem witness_AreaTraps_refused :
    (withArea .parked).areaOf 0x3000000000000 1 true = .error 0x3000000000000 := by
  have n : areaSize 1 / 64 = 1215 + 1 := by decide
  have h : (withArea .parked).refusedByte 0x3000000000000 0 true = some 0x3000000000000 := by decide +kernel
  rw [State.areaOf, n, List.range_succ_eq_map, State.areaLines, State.areaLine, h, Option.elim_some]
  rfl

theorem zip_map (n : Nat) : ((List.range n).map fun i => 0x200000 + 64 * i).zip (List.range n) =
    (List.range n).map fun i => (0x200000 + 64 * i, i) := by
  rw [← List.zip_map', List.map_id']

theorem cellFill_behind (n a b : Nat) (v : Byte) (m : List Host.Cell) (h : a + n ≤ b) : cellFill n a ((b, v) :: m) = List.replicate n 0 := by
  induction n generalizing a with
  | zero => rfl
  | succ n ih => rw [cellFill, if_neg (by omega), ih (a + 1) (by omega)]; rfl

/-- The lines behind the last byte of the area hold zeros. -/
theorem image_short (m : List Host.Cell) (is : List Nat) (h : ∀ i ∈ is, cellBytes m (0x200000 + 64 * i) 64 = List.replicate 64 0) :
    ((is.map fun i => (0x200000 + 64 * i, i)).flatMap fun p =>
      (slabCells (64 * p.2) (cellBytes m p.1 64)).filter fun c => c.2 ≠ 0) = [] := by
  rw [List.flatMap_eq_nil_iff]
  intro p hp
  obtain ⟨i, hi, rfl⟩ := List.mem_map.1 hp
  rw [h i hi, List.filter_eq_nil_iff]
  intro c hc
  obtain ⟨q, hq, rfl⟩ := List.mem_map.1 hc
  obtain ⟨x, y⟩ := q
  have := List.eq_of_mem_replicate (List.of_mem_zip hq).2
  simp [this]

theorem bytes_behind (i : Nat) (h : i < 1214) : cellBytes (withArea .free).mem (0x200000 + 64 * (2 + i)) 64 = List.replicate 64 0 := by
  have e : (withArea .free).mem = [(4096, 0x33), (4100, 0x20), (8192, 0x17), (8196, 0x40), (0x200000, 1), (0x200001, 1)
    , (0x200040, 0x10), (0x200041, 0x20), (0x200042, 0x70), (0x200062, 0x20), (0x20006A, 0x20), (0x200072, 0x20), (0x20007A, 0x20)]
    ++ (0x2CFFC00040, 1) :: tableCells.tail := rfl
  rw [cellBytes, e]
  simp only [List.cons_append, List.nil_append, cellDrop]
  repeat rw [if_pos (by omega)]
  rw [if_neg (by omega), cellFill_behind _ _ _ _ _ (by omega)]

theorem witness_ContextLoad_image : imageOk 1 ((withArea .free).areaImage ((List.range 1216).map fun i => 0x200000 + 64 * i)) = true := by
  rw [State.areaImage, List.length_map, List.length_range, zip_map, show 1216 = 2 + 1214 from rfl, List.range_add, List.map_append,
    List.flatMap_append, image_short _ ((List.range 1214).map fun i => 2 + i) fun i hi => by
      obtain ⟨j, hj, rfl⟩ := List.mem_map.1 hi; exact bytes_behind j (List.mem_range.1 hj)]
  decide +kernel

/-- An outstanding result that can raise a flag. -/
def flagging : State := ({ base with cur := { base.cur with seq0 := 1 } } : State).modMe fun v => { v with pend := [⟨0, 9, 9, 0, 2, 0, true, 0, .sreg false 6 0⟩] }

theorem witness_SystemRegisters : base.flagsOut = false ∧ flagging.flagsOut = true ∧ supervisor.me.r.mode = true ∧
    (base.CanTrap ∧ base.FullS 2) ∧ base.me.r.mode = false ∧ supervisor.Committed ∧
    (let w := (sRegIs supervisor 6 0x404).valS 6
     let base := w.toNat % 16
     let size := w.toNat / 256 % 16
     (supervisor.myCore.ctxAt 1).occ = .free ∧ 1 ≤ size ∧ size ≤ 13 ∧ base + size ≤ 16 ∧
       ∀ y : CtxId, y ≠ 1 → base + size ≤ 4 * y.toNat ∨ 4 * y.toNat + 4 ≤ base) ∧
    ¬ 1 ≤ (supervisor.valS 2).toNat / 256 % 16 ∧
    (supervisor.cur.late = 0 ∧ supervisor.log.entries = [] ∧ supervisor.log.entries.length ≤ 48) ∧
    (let s : State := { supervisor with log := { supervisor.log with entries := [coreEntry 0x29 3 0 0 0 0] } }
     s.log.entries = [coreEntry 0x29 3 0 0 0 0] ∧ (coreEntry 0x29 3 0 0 0 0).seq = (s.valS 0).extractLsb' 0 16 ∧
     (coreEntry 0x29 3 0 0 0 0).seq ≠ (s.valS 2).extractLsb' 0 16) := by
  simp only [State.FullS, State.CanTrap, State.Committed]; decide +kernel

theorem witness_TrapsReturnsAndHalt : base.me.r.loops = [] ∧ base.cur.br = none ∧ base.CanTrap ∧
    (regsAre fun r => { r with dbgen := true }).me.r.dbgen = true ∧ base.me.r.dbgen = false ∧
    (supervisor.me.r.mode = true ∧ supervisor.me.tr.fromTiming = false) ∧
    (supervisor.modMe fun v => { v with tr := { v.tr with tcause := 0x800E } }).me.tr.fromTiming = true ∧ base.me.r.mode = false ∧
    (regsAre fun r => { r with inui := true }).me.r.inui = true ∧ base.me.r.inui = false ∧
    (isolated.me.r.mode = true ∧ isolated.cur.isolated = true ∧ isolated.Committed ∧ isolated.me.r.loops = [] ∧ isolated.cur.br = none ∧
      isolated.me.uiReady = false ∧ isolated.me.occ = .running) ∧
    supervisor.cur.isolated = false ∧ supervisor.CanTrap := by
  simp only [State.CanTrap, State.Committed]; decide +kernel

/-- An IMLD of context 0, of a bundle before this one, is outstanding. -/
def loading : State := (coreIs fun k => { k with tileQ := [⟨0, 0, 4, 0, 0, 9, 9, 9, .imld 0 0 64, 0, 0, 0, 0, 0, 0, 0, 0, none⟩] }).modCur fun u =>
  { u with seq0 := 1 }

theorem witness_TimeOutputsAndSums : (base.FullS 0 ∧ base.FullS 2) ∧ Memory.wf base.myCore.scratch = true ∧
    (base.valS 0).toNat ≤ base.timeNs ∧ base.timeNs < (base.valS 2).toNat ∧
    ((base.valS 2).extractLsb' 32 32 = 0 ∧ base.me.touts.length < 8) ∧
    ((meIs fun v => { v with touts := List.replicate 8 ⟨0, 0, 0⟩ }).me.touts.length = 8 ∧ base.me.solo = false) ∧
    (base.valS 1).extractLsb' 32 32 ≠ 0 ∧ base.CanTrap ∧
    (1 ≤ (base.valS 4).toNat ∧ (base.valS 0).toNat / 32768 = ((base.valS 0).toNat + (base.valS 4).toNat - 1) / 32768) ∧
    ¬ 1 ≤ (base.valS 0).toNat ∧ base.imldOut = false ∧
    loading.imldOut = true ∧ (regsAre fun r => { r with s := r.s.set 4 32769 }).valS 4 = 32769 := by
  simp only [State.FullS, State.CanTrap]; decide +kernel

/-- The X operation of context 0 is in flight; arrived tells that its scan is over. -/
def scanning (arrived : Bool) : State := isolated.modMe fun v => { v with infl := some ⟨.scan 6, 0, 0, none, [], arrived, none, none⟩ }

theorem witness_Scan : isolated.Committed ∧ isolated.me.r.mode = true ∧ isolated.cur.isolated = true ∧
    (∀ y : CtxId, y ≠ isolated.cur.ctx → (isolated.myCore.ctxAt y).occ = .free) ∧ isolated.myCore.scanRun = none ∧
    (scanning true).me.infl = some ⟨.scan 6, 0, 0, none, [], true, none, none⟩ ∧
    (scanning false).me.infl = some ⟨.scan 6, 0, 0, none, [], false, none, none⟩ := by
  simp only [State.Committed]; decide +kernel

/-- A scan since time 0, at 200 µs; a task that became READY since then; and a die with a scan due in context 0. -/
def scanned : State := (coreIs fun k => { k with scanRun := some ⟨0, 0, []⟩ }).modDev fun d => { d with tb := { d.tb with units := 3400000 } }
def scanWanted : State := { base.modDie false fun d => { d with lastScan := [(0, 0)], policy := { d.policy with interval := 1 } } with
  dev := { base.dev with tb := { base.dev.tb with units := 17000000000 } } }
def gap : State := { (((base.modCtx 0 0 fun _ => Ctx.reset).modDie false fun d => { d with scanDue := [0] })) with tasks := [] }

theorem witness_Scan_events : ((scanned.coreAt 0).scanRun = some ⟨0, 0, []⟩ ∧ 0 + 200000 ≤ scanned.timeNs) ∧ base.timeNs < 0 + 200000 ∧
    ({ scanned with tasks := [{ aTask with id := 1, st := .ready, loc := none }] } : State).abortDue 0 = true ∧
    ((scanWanted.coreAt 0).ready = true ∧ (scanWanted.coreAt 0).wings = false ∧ assoc (scanWanted.dieAt false).lastScan 0 = some 0 ∧
      (scanWanted.dieAt false).policy.interval ≠ 0 ∧ 0 + (scanWanted.dieAt false).policy.interval.toNat * 1000000000 ≤ scanWanted.timeNs ∧
      (scanWanted.dieAt false).scanDue.contains 0 = false) ∧
    (gap.dieReady false = true ∧ gap.scanReady 0 = true ∧ gap.scanFirst 0 = true) := by decide +kernel

/-! The shape is 16 rows by 32 columns of the type given. -/

def shaped (ty : Nat) : State := meIs fun v => { v with vshape := BitVec.ofNat 32 (0x2010 + ty * 2 ^ 20) }
def i8 : State := shaped 0
def n16 : State := shaped 4
def i32 : State := shaped 2
def fp32 : State := shaped 7

theorem witness_VectorSetUp : base.FullS 2 ∧ (base.valS 2).toNat < base.myPart ∧ base.myPart ≤ (base.valS 5).toNat ∧ base.CanTrap ∧
    (ElemTy.ofCode ((0x00702010 : Word32).extractLsb' 20 4)).isSome = true ∧
    (ElemTy.ofCode ((0x00F02010 : Word32).extractLsb' 20 4)) = none ∧
    (sRegIs base 6 0x100002000800001).me.r.s[6] = 0x100002000800001 ∧ ¬ (base.valS 0).toNat % 512 < (base.valS 0).toNat / 2 ^ 16 % 512 := by
  simp only [State.FullS, State.CanTrap]; decide +kernel

theorem witness_VectorSetUp_index : let x := (sRegIs base 6 0x1000000800000).valS 6
    let fld (k : Nat) : Nat := x.toNat / 2 ^ k % 512
    fld 0 < fld 16 ∧ fld 16 ≤ base.myPart ∧ fld 0 ≤ fld 32 ∧ fld 32 < fld 16 := by decide +kernel

theorem witness_VectorIntegers : (i8.FullV 1 1 ∧ i8.FullV 2 2 ∧ i8.NamesV 3 3) ∧ tyFp i8.shape.ty = false ∧ i8.FullV 3 3 ∧
    tyFp fp32.shape.ty = true ∧ (fp32.FullV 1 1 ∧ fp32.FullV 2 2 ∧ fp32.NamesV 3 3) ∧ fp32.CanTrap := by
  simp only [State.FullV, State.NamesV, State.CanTrap]; decide +kernel

/-- One FP32 element with every exception enabled: v2 holds 1.0, v1 holds 1.0 or a signalling NaN. -/
def precise (snan : Bool) : State :=
  (((meIs fun v => { v with vshape := 0x00700101 }).modRegs fun r => { r with fflags := 0x1F0000000000 }).modMyCore fun k =>
    { k with df := (if snan then [(2048, 1), (2050, 0x80), (2051, 0x7F)] else [(2050, 0x80), (2051, 0x3F)]) ++ [(4098, 0x80), (4099, 0x3F)] })

theorem witness_VectorFloat : fp32.Imprecise ∧ (precise true).me.r.ten ≠ 0 ∧
    (let s := precise true; (s.FullV 1 1 ∧ s.FullV 2 2 ∧ s.NamesV 3 3) ∧ tyFp s.shape.ty = true ∧ s.CanTrap ∧
      s.me.r.ferec.getLsbD 63 = false ∧
      (flagsUpTo s.shape.count fun k => fpAdd 24 .rne (Fp.ofBits 24 (s.elem 1 k)) (Fp.ofBits 24 (s.elem 2 k))) &&& s.me.r.ten ≠ 0) ∧
    (let s := precise false; s.me.r.ten ≠ 0 ∧
      (flagsUpTo s.shape.count fun k => fpAdd 24 .rne (Fp.ofBits 24 (s.elem 1 k)) (Fp.ofBits 24 (s.elem 2 k))) &&& s.me.r.ten = 0) ∧
    (Fp.ofBits 24 0x3F800000).isNan = false ∧ (Fp.ofBits 8 0x7F81).isNan = true := by
  simp only [State.FullV, State.NamesV, State.Imprecise, State.CanTrap]; decide +kernel

theorem witness_VectorRearrangement : (i8.FullV 1 1 ∧ i8.FullV 2 2 ∧ i8.NamesV 3 3 ∧ i8.FullV 3 3) ∧ (i8.FullS 4 ∧ i8.FullS 5 ∧ i8.FullS 0) ∧
    ((sRegIs i8 6 0x1001F).valS 6).getLsbD 16 = true ∧ ((sRegIs i8 6 0x1001F).valS 6).toNat % 4096 < i8.shape.cols ∧
    ((i8.valS 2).getLsbD 16 = false ∧ (i8.valS 2).toNat % 4096 < i8.shape.rows) ∧ i8.shape.rows ≤ (i8.valS 4).toNat % 4096 ∧ i8.CanTrap ∧
    (i8.valS 4).toNat < i8.shape.count ∧ tyFp i8.shape.ty = false ∧ tyFp fp32.shape.ty = true ∧
    i8.shape.count ≤ 1024 ∧ i8.shape.cols ≤ 64 ∧ 1024 < (meIs fun v => { v with vshape := 0x00004020 }).shape.count ∧
    64 < (meIs fun v => { v with vshape := 0x00004101 }).shape.cols ∧
    (1 + 7 < i8.myPart ∧ ∀ k, k < i8.shape.count → ((i8.slabElems 2 2 i8.shape.count).getD k 0) * 1 + 1 ≤ 16384) ∧
    (∀ j, j < 8 → i8.me.slabEmpty.contains (1 + j) = false) ∧ ¬ 121 + 7 < i8.myPart := by
  simp only [State.FullV, State.NamesV, State.FullS, State.CanTrap]; decide +kernel

theorem witness_MasksAndExtracts : (i8.FullV 1 1 ∧ i8.FullV 2 2 ∧ i8.FullS 2) ∧ tyFp i8.shape.ty = false ∧
    (tyFp fp32.shape.ty = true ∧ fp32.Imprecise) ∧ (i8.valS 2).toNat < i8.shape.count ∧ i8.shape.count ≤ (i8.valS 5).toNat ∧ i8.CanTrap ∧
    ((List.range i8.shape.count).filter fun i => (i8.me.r.getK 1).getLsbD i) = [] ∧
    ((List.range i8.shape.count).filter fun i => (i8.me.r.getK 0).getLsbD i) ≠ [] := by
  simp only [State.FullV, State.FullS, State.Imprecise, State.CanTrap]; decide +kernel

theorem witness_VectorConversions : (i8.FullV 1 1 ∧ i8.FullV 2 2 ∧ i8.NamesV 3 3 ∧ i8.FullV 3 3 ∧ i8.FullS 2 ∧ i8.Imprecise) ∧
    (i32.FullV 1 1 ∧ i32.FullV 2 2 ∧ i32.NamesV 3 3 ∧ i32.Imprecise) ∧ cvtOk .i8 .shape (.plain .fp32) = true ∧
    cvtOk .i8 .shape (.tap .t8) = false ∧ i8.shape.count * 4 ≤ 2048 ∧ tyFp .i8 = false ∧ i32.shape.ty = .i32 ∧
    i32.shape.count * (reqTarget .i8).width ≤ 2048 ∧ i8.shape.ty = .i8 ∧ i8.shape.cols % 4 = 0 ∧ i32.CanTrap ∧
    reqSrcWidth i32.shape.ty .shape = some 4 ∧ reqSrcWidth i8.shape.ty .shape = none ∧ i8.CanTrap ∧
    (let s := meIs fun v => { v with vshape := BitVec.ofNat 32 (0x2040 + 0 * 2 ^ 20) }
     s.shape.count * (reqTarget .i8).width ≤ 2048 ∧ 2048 < s.shape.count * 2 ∧ reqSrcWidth s.shape.ty (.tap .t12) = some 2) ∧
    (i8.FullS 2 ∧ i8.shape.ty ≠ .i32 ∧ i8.shape.ty ≠ .n32) ∧ i32.shape.ty ≠ .i8 ∧ i32.FullV 3 3 := by
  simp only [State.FullV, State.NamesV, State.FullS, State.Imprecise, State.CanTrap]; decide +kernel

/-- The special-function queue holds four commands. -/
def sfuBusy : State := fp32.modMyCore fun k => { k with sfuQ := [9, 9, 9, 9] }

theorem witness_SpecialFunctions : (fp32.FullV 1 1 ∧ fp32.NamesV 3 3 ∧ fp32.Imprecise ∧ fp32.CanTrap) ∧ fp32.hasSfu = true ∧
    tyFp fp32.shape.ty = true ∧ (fp32.myCore.sfuQ.filter fun t => decide (fp32.myCore.cycle < t)).length < 4 ∧
    4 ≤ (sfuBusy.myCore.sfuQ.filter fun t => decide (sfuBusy.myCore.cycle < t)).length ∧
    ({ fp32 with variant := .hx920 } : State).hasSfu = false ∧ tyFp i8.shape.ty = false := by
  simp only [State.FullV, State.NamesV, State.Imprecise, State.CanTrap]; decide +kernel

/-- td1 names tensor 1, td2 and td3 the two planes of a T8 tensor (R192, R114), td4 a tensor of FP32. -/
def withTd : State := meIs fun v => { v with
  td := (((v.td.set 1 (descriptor 1 1)).set 2 (BitVec.ofNat 512 (5 + 10 * 2 ^ 20 + 2 * 2 ^ 24 + 2 ^ 63 + 2 ^ 64))).set 3
    (BitVec.ofNat 512 (6 + 10 * 2 ^ 20 + 3 * 2 ^ 24 + 2 ^ 26 + 2 ^ 63 + 2 ^ 64))).set 4
    (BitVec.ofNat 512 (7 + 6 * 2 ^ 20 + 2 ^ 63 + 2 ^ 64)) }
/-- The tile queue is full, its port busy. -/
def tileFull : State := withTd.modMyCore fun k => { k with tileQ := List.replicate 16 ⟨0, 0, 4, 0, 0, 9, 9, 9, .pf, 0, 0, 0, 0, 0, 0, 0, 0, none⟩ }

theorem witness_TileCommands : (withTd.FullS 4 ∧ withTd.FullS 2 ∧ withTd.FullS 0) ∧ withTd.myCore.tileHeld < 16 ∧ 16 ≤ tileFull.myCore.tileHeld ∧
    ((withTd.me.tdOf 1).valid = true ∧ (withTd.me.tdOf 1).geom = 0) ∧ (withTd.me.tdOf 0).valid = false ∧
    (withTd.NamesV 1 1 ∧ withTd.FullV 1 1 ∧ withTd.NamesPair 2 2 ∧ withTd.FullPair 2 2) ∧
    multiKind withTd.me 2 3 0 = some .t8 ∧ multiKind withTd.me 4 0 0 = some .pair ∧ multiKind withTd.me 0 0 0 = none ∧
    (withTd.valS 4).toNat % 64 = 0 ∧ (withTd.valS 2).toNat % 64 ≠ 0 ∧ withTd.CanTrap ∧
    (withTd.modMyCore fun k => { k with teCache := [0] }).myCore.teCache.contains ((withTd.valS 4).toNat / 2 ^ 48) = true ∧
    withTd.myCore.teCache.contains ((withTd.valS 4).toNat / 2 ^ 48) = false ∧
    -- an IMLD of 64 bytes to the start of the other half
    (let y := ((sRegIs withTd 6 0x408000).valS 6).toNat
     y < 2 ^ 32 ∧ y % 65536 % 64 = 0 ∧ 64 ≤ y / 65536 % 65536 ∧
       y % 65536 / 32768 = (y % 65536 + y / 65536 % 65536 - 1) / 32768 ∧ y % 65536 / 32768 ≠ withTd.cur.addr.toNat / 32768) := by
  simp only [State.FullS, State.FullV, State.NamesV, State.NamesPair, State.FullPair, State.CanTrap]; decide +kernel

theorem witness_TileCommands_members : casts.castLook 3 = some ⟨true, 0, [0], 5, [0], [], 0, false⟩ ∧ casts.me.task = some 0 ∧
    casts.memberSlabs 0 = some 128 ∧ (1 : Nat) < 128 := by decide +kernel

/-- A tile command of context 0 at the head of the queue, its occupancy over: tensor 1 as one row of one element. -/
def oneElement : Desc := BitVec.ofNat 512 (1 + 2 ^ 63 + 2 ^ 64 + 2 ^ 96 + 2 ^ 128 + 2 ^ 160 + 2 ^ 204)
def tileHeadIs (op : TileOp) (td : Desc) : State :=
  (owns (coreIs fun k => { k with tileQ := [⟨0, 0, 4, 0, 0, 0, 0, 0, op, 1, td, 0, 0, 0, 0, 0, 0, none⟩] })).modCoh fun h =>
    { h with lines := [(0x8000, { LineSt.reset with rats := [0], port := [0] })] }

theorem witness_TileCommands_engine (op : TileOp) : (((tileHeadIs op oneElement).coreAt 0).tileQ.head?).map (·.op) = some op := rfl
theorem witness_TileCommands_wf : ∀ c, Memory.wf ((tileHeadIs .ld oneElement).coreAt c).df = true ∧
    Memory.wf ((tileHeadIs .ld oneElement).coreAt c).side = true := by decide +kernel

theorem witness_TileCommands_load : let s := tileHeadIs .ld oneElement
    let m : TileCmd := ⟨0, 0, 4, 0, 0, 0, 0, 0, .ld, 1, oneElement, 0, 0, 0, 0, 0, 0, none⟩
    (s.coreAt 0).tileQ = [m] ∧ m.occEnd ≤ (s.coreAt 0).cycle ∧ m.td.geom = 0 ∧ (s.coreAt 0).fillReady m = true ∧
    (s.tileKeys m).toOption.map rowsKeys = some [(0x200000, .tracked 0)] ∧
    s.EngineReads 0 m [(0x200000, .tracked 0)] ∧ gateRead (s.ctxAt 0 0).gate 0x200000 m.seq = none := by
  simp only [State.EngineReads, State.Held, Core.HasRoom]; decide +kernel

theorem witness_TileCommands_store : let s := tileHeadIs .st oneElement
    let m : TileCmd := ⟨0, 0, 4, 0, 0, 0, 0, 0, .st, 1, oneElement, 0, 0, 0, 0, 0, 0, none⟩
    (s.coreAt 0).tileQ = [m] ∧ m.td.geom = 0 ∧ (s.tileKeys m).toOption.map rowsKeys = some [(0x200000, .tracked 0)] ∧
    m.region = (s.ctxAt 0 0).region ∧ (s.coreAt 0).HasRoom [(0x200000, .tracked 0)] [0x200000] ∧
    s.guardMissing 0 0 [0x8000] = [] ∧ s.lentAny 0 [0x8000] = false ∧ s.spaceWaits 0 0 true [(0x200000, .tracked 0)] = false ∧
    remoteFirsts [(0x200000, .tracked 0)] = [] := by
  simp only [Core.HasRoom]; decide +kernel

/-- Tensors 5, 6 and 7 are the planes of a T12 tensor of one element, in the frames 0x40, 0x60 and 0x80 (R114, R192). -/
def planeDesc (plane : Nat) : Desc :=
  BitVec.ofNat 512 (5 + plane + 11 * 2 ^ 20 + (if plane = 0 then 2 else 3) * 2 ^ 24 + plane * 2 ^ 26 + 2 ^ 63 + 2 ^ 64 + 2 ^ 96 + 2 ^ 128 + 2 ^ 160
    + (5 + plane) * 2 ^ 204)
def planeCells : List Host.Cell :=
  [0, 1, 2].foldl (fun m p => cellWrite (cellWrite m (4096 * (5 + p)) (leBytes 8 (0x33 + 2816 + (if p = 0 then 128 else 192) + 4096 * p +
    (0x40 + 0x20 * p) * 2 ^ 32))) (descAddr (5 + p)) (leBytes 64 (planeDesc p).toNat)) base.mem
def planed (op : TileOp) : State :=
  ({ base with mem := planeCells }.modMyCore fun k => { k with
    tileQ := [⟨0, 0, 4, 0, 0, 0, 0, 0, op, 2, planeDesc 0, planeDesc 1, planeDesc 2, 0, 0, 0, 0, none⟩] }).modCoh fun h => { h with
      lines := [0x10000, 0x18000, 0x20000].map fun l => (l, { LineSt.reset with rats := [0], port := [0] }) }

-- a load reads the fields of the one element and its scale; a store writes the record of 64 elements whole
theorem witness_TileCommands_planes : let s := planed .ldp
    let m : TileCmd := ⟨0, 0, 4, 0, 0, 0, 0, 0, .ldp, 2, planeDesc 0, planeDesc 1, planeDesc 2, 0, 0, 0, 0, none⟩
    let ks : List (Nat × PageKind) := [(0x400000, .tracked 0), (0x400030, .tracked 0), (0x600000, .tracked 0), (0x800000, .tracked 0)]
    (s.coreAt 0).tileQ = [m] ∧ m.kind = .t12 ∧ (s.coreAt 0).fillReady m = true ∧ (s.tileKeys m).toOption.map rowsKeys = some ks ∧
    s.EngineReads 0 m ks ∧ (∀ k ∈ ks, gateRead (s.ctxAt 0 0).gate k.1 m.seq = none) ∧ Memory.wf s.mem = true := by
  simp only [State.EngineReads, State.Held, Core.HasRoom]; decide +kernel

theorem witness_TileCommands_storePlanes : let s := planed .stM
    let m : TileCmd := ⟨0, 0, 4, 0, 0, 0, 0, 0, .stM, 2, planeDesc 0, planeDesc 1, planeDesc 2, 0, 0, 0, 0, none⟩
    (s.coreAt 0).tileQ = [m] ∧ m.kind = .t12 ∧ (((s.tileKeys m).toOption.map rowsKeys).map fun ks => decide (trackedLines ks = [0x10000, 0x18000, 0x20000] ∧
      ks.length = 48 + 1 + 16 + 32 ∧ s.spaceWaits 0 0 true ks = false ∧ remoteFirsts ks = [] ∧
      (s.coreAt 0).gateUsed + (distinct (ks.map (·.1))).length ≤ Config.gateCore ∧ (s.coreAt 0).ratUsed + 3 ≤ Config.ratCore)) = some true ∧
    m.region = (s.ctxAt 0 0).region ∧ s.guardMissing 0 0 [0x10000, 0x18000, 0x20000] = [] ∧ s.lentAny 0 [0x10000, 0x18000, 0x20000] = false := by
  decide +kernel

/-- A TLDM into the slab 1 of the one member of the cast. -/
theorem witness_TileCommands_multicast : let s := tileHeadIs (.ldm 3 [0]) oneElement
    let m : TileCmd := ⟨0, 0, 4, 0, 0, 0, 0, 0, .ldm 3 [0], 1, oneElement, 0, 0, 0, 0, 0, 0, none⟩
    (s.coreAt 0).tileQ = [m] ∧ (s.coreAt 0).fillReady m = true ∧ (s.tileKeys m).toOption.map rowsKeys = some [(0x200000, .tracked 0)] ∧
    s.EngineReads 0 m [(0x200000, .tracked 0)] ∧ s.taskAt 0 = some aTask ∧ (aTask.loc ≠ none ∨ aTask.saved = none) ∧
    gateRead (s.ctxAt 0 0).gate 0x200000 m.seq = none := by
  simp only [State.EngineReads, State.Held, Core.HasRoom]; decide +kernel

/-- A TLDS of the first 2,048 bytes of tensor 1. -/
def slabLoad : TileCmd := ⟨0, 0, 4, 0, 0, 0, 0, 0, .lds 0x1000000000000, 1, 0, 0, 0, 0, 0, 0, 0, none⟩
def loadsSlab : State := ((withArea .free).modMyCore fun k => { k with tileQ := [slabLoad] }).modCoh fun h =>
  { h with lines := (List.range 32).map fun i => (0x8000 + i, { LineSt.reset with rats := [0], port := [0] }) }
def slabKeys : List (Nat × PageKind) := (List.range 2048).map fun i => (0x200000 + i, .tracked 0)

theorem loadsSlab_maps : MapsFirst loadsSlab :=
  ⟨by decide +kernel, by decide +kernel, by decide +kernel, by decide +kernel, by decide +kernel, by decide +kernel, by decide +kernel, by decide +kernel⟩

theorem keysOf_slab (is : List Nat) (h : ∀ i ∈ is, i < 2 ^ 21) :
    loadsSlab.keysOf false (is.map fun i => 0x1000000000000 + i) = .ok (is.map fun i => (0x200000 + i, .tracked 0)) := by
  induction is with
  | nil => rfl
  | cons i is ih =>
    rw [List.map_cons, State.keysOf, loadsSlab_maps.byteKey i (h i (by simp)) false, ih fun i hi => h i (by simp [hi])]
    rfl

theorem witness_TileCommands_slabKeys :
    loadsSlab.keysOf false ((List.range 2048).map fun i => tensorByte (0x1000000000000 : Word).toNat 0 i) = .ok slabKeys := by
  have e : ∀ i ∈ List.range 2048, tensorByte (0x1000000000000 : Word).toNat 0 i = 0x1000000000000 + i := fun i hi => by
    have := List.mem_range.1 hi
    rw [show (0x1000000000000 : Word).toNat = 0x1000000000000 from rfl]; unfold tensorByte wrapTo; omega
  rw [List.map_congr_left e, keysOf_slab _ fun i hi => by have := List.mem_range.1 hi; omega, slabKeys]

theorem witness_TileCommands_slab : (loadsSlab.coreAt 0).tileQ = [slabLoad] ∧ (loadsSlab.coreAt 0).fillReady slabLoad = true ∧
    loadsSlab.spaceWaits 0 0 false slabKeys = false ∧ trackedLines slabKeys = (List.range 32).map (0x8000 + ·) ∧
    (∀ i, i < 32 → (loadsSlab.lineAt (0x8000 + i)).ratHolds 0 = true ∧ (loadsSlab.lineAt (0x8000 + i)).dataFor 0 .engine = true ∧
      0x8000 + i ∉ loadsSlab.coh.poison) ∧
    loadsSlab.guardMissing 0 0 ((List.range 32).map (0x8000 + ·)) = [] ∧ (loadsSlab.ctxAt 0 0).gate = [] := by decide +kernel

/-- The one line of a prefetch, found when it began, is in the slice of the core's die. -/
theorem witness_TileCommands_prefetch : ∀ op ∈ ([.pf, .pfl 1] : List TileOp),
    let m : TileCmd := ⟨0, 0, 4, 0, 0, 0, 0, 0, op, 1, oneElement, 0, 0, 0, 0, 0, 0, some [(0x8000, .tracked 0)]⟩
    let s := (coreIs fun k => { k with tileQ := [m] }).modCoh fun h =>
      { h with lines := [(0x8000, { LineSt.reset with slices := [(false, ⟨1, false, false, true⟩)] })] }
    (s.coreAt 0).tileQ = [m] ∧ m.occEnd ≤ (s.coreAt 0).cycle ∧ ∀ l ∈ m.todo.getD (s.fetchLines m), s.fetchHeld 0 l = true := by
  decide +kernel

/-- An IMLD of a tracked line; all its 64 bytes lie in the line whose token the core holds. -/
theorem witness_TileCommands_imld : let s := tileHeadIs (.imld 0x1000000000000 0x8000 64) 0
    ((s.keysOf false ((List.range 64).map fun i => tensorByte 0x1000000000000 0 i)).toOption.map fun ks =>
      decide (∀ p ∈ ks, p.2 = .tracked 0 ∧ lineOf p.1 = 0x8000 ∧ gateRead (s.ctxAt 0 0).gate p.1 0 = none ∧
        trackedLines ks = [0x8000])) = some true ∧
    Memory.wf (s.coreAt 0).scratch = true ∧ 0x8000 < 65536 ∧ s.spaceWaits 0 0 false [(0x200000, .tracked 0)] = false ∧ (s.lineAt 0x8000).ratHolds 0 = true ∧ 0x8000 ∉ s.coh.poison ∧
    (s.lineAt 0x8000).dataFor 0 .engine = true ∧ s.guardMissing 0 0 [0x8000] = [] ∧ (s.ctxAt 0 0).region = 0 ∧
    (s.coreAt 0).gateUsed + 0 ≤ Config.gateCore ∧ (s.coreAt 0).ratUsed + 1 ≤ Config.ratCore := by decide +kernel

theorem witness_TileCommands_fault : let s := tileHeadIs .ld (oneElement + 8)
    let m : TileCmd := ⟨0, 0, 4, 0, 0, 0, 0, 0, .ld, 1, (oneElement + 8), 0, 0, 0, 0, 0, 0, none⟩
    (s.coreAt 0).tileQ = [m] ∧ (s.tileKeys m).toOption = none ∧ (s.coreAt 0).fillReady m = true ∧ (s.ctxAt 0 0).opened = true ∧
    (s.ctxAt 0 0).tr.installed = true ∧ (s.ctxAt 0 0).ckpt.active = false := by decide +kernel

/-- The matrix queue is full. -/
def matCmd (op : MatOp) (mx : MatrixRegs) : MatCmd := ⟨0, 0, 0, 0, 0, op, 2, 4, 6, mx, none, 0, false, false, 0, 0, false⟩
def matFull : State := base.modMyCore fun k => { k with matQ := List.replicate 8 (matCmd .zero MatrixRegs.reset) }

theorem witness_MatrixCommands : base.myCore.matHeld < 8 ∧ 8 ≤ matFull.myCore.matHeld ∧
    (base.NamesPair 2 2 ∧ base.NamesPair 54 54 ∧ base.FullV 1 1 ∧ base.FullV 4 4 ∧ base.FullPair 4 4 ∧ base.NamesV 3 3) ∧
    (base.me.mx.cont = false ∧ (meIs fun v => { v with mx := { v.mx with cont := true } }).me.mx.cont = true) ∧ base.hasT12 = true ∧
    ({ base with variant := .hx920 } : State).hasT12 = false ∧ (base.FullS 2 ∧ base.FullS 4) ∧ (base.valS 2).toNat ≤ 32 ∧
    32 < (base.valS 4).toNat ∧ base.CanTrap ∧ (base.me.slab 3 % 2 = 1 ∧ base.me.slab 3 < base.myPart) := by
  simp only [State.FullS, State.FullV, State.NamesV, State.NamesPair, State.FullPair, State.CanTrap]; decide +kernel

/-- One matrix command at the head of the queue, long over. -/
def matHeadIs (op : MatOp) (lim : BitVec 6) (sat6 : BitVec 13) : State :=
  base.modMyCore fun k => { k with cycle := 500, matQ := [matCmd op { MatrixRegs.reset with mlim := lim, sat6 := sat6 }] }

theorem witness_MatrixCommands_land : ∀ op ∈ ([.i8, .bf, .t6, .t8, .t12, .zero, .finI, .finF, .cvt false, .cvt true, .rd false 6 2 true] : List MatOp),
    let s := matHeadIs op 32 0x1FFF
    let k := (s.matBegun 0).coreAt 0
    (k.matNext.map fun m => (m.op, m.mx.mlim)) = some (op, 32) ∧ s.dev.finj.getLsbD 0 = false ∧
    Memory.wf k.df = true ∧ Memory.wf k.side = true := by decide +kernel

/-- An MMA.AD that has been decided in its first rung lands; the checksums of MFIN.I agree on zeros, and do not beside a 1. -/
theorem witness_MatrixCommands_landAd :
    let s := base.modMyCore fun k => { k with cycle := 500, matQ := [{ matCmd .ad MatrixRegs.reset with begun := some 0, decided := true }] }
    (((s.matBegun 0).coreAt 0).matNext.map fun m => (m.op, m.rung, m.decided)) = some (.ad, 0, true) := by decide +kernel
theorem witness_MatrixCommands_checksum : let k := ((matHeadIs .finI 32 0x1FFF).matBegun 0).coreAt 0
    let l := { k with df := [(4096, 1)] }
    cellNat k.side (k.sideAddr 0 2) 4 = cellNat k.df (k.slabAddr 0 2) 4 ∧ cellNat l.side (l.sideAddr 0 2) 4 ≠ cellNat l.df (l.slabAddr 0 2) 4 ∧
    l.slabAddr 0 2 = 4096 := by decide +kernel
theorem witness_MatrixCommands_mrd : let s := (matHeadIs (.rd false 6 2 true) 32 0x1FFF).modCtx 0 0 fun v => { v with
      pend := [⟨0, 9, 9, 0, 6, 0, false, 0, .mrd false 6⟩] }
    (((s.matBegun 0).coreAt 0).matNext.map fun m => m.seq) = some 0 ∧
    ((((s.matBegun 0).coreAt 0).ctxAt 0).pend.map fun p => p.seq) = [0] := by decide +kernel

-- within every budget: budgets of all ones are never exceeded; the other verdicts need a count above a budget of 0
theorem witness_MatrixCommands_rung : ∀ lim ∈ ([0, 1] : List (BitVec 6)),
    ((((matHeadIs .ad lim 0x1FFF).matBegun 0).coreAt 0).rungNow.map fun m => (m.decided, m.mx.mlim, m.rung, m.mx.sat6, m.mx.und6, m.mx.can6)) =
      some (false, lim, 0, 0x1FFF, 0x1FFF, 0x1FFF) := by decide +kernel

/-! Results about to land in context 0. -/

def landing (kind : PendKind) : State :=
  (meIs fun v => { v with region := 1, pend := [⟨0, 9, 9, 1, 2, 0, true, 1, kind⟩] }).modMyCore fun k => { k with cycle := 10 }

theorem witness_ResultsLand (kind : PendKind) : let s := landing kind
    (s.ctxAt 0 0).pend = [⟨0, 9, 9, 1, 2, 0, true, 1, kind⟩] ∧ 9 < (s.coreAt 0).cycle ∧ (1 = (s.ctxAt 0 0).region ∧ (s.ctxAt 0 0).opened = true) ∧
    (s.coreAt 0).tileQ = [] ∧ (s.coreAt 0).matQ = [] ∧ Memory.wf (s.coreAt 0).df = true := by
  refine ⟨rfl, ?_, ⟨rfl, rfl⟩, rfl, rfl, rfl⟩; show (9 : Nat) < 10; decide

theorem witness_ResultsLand_sreg : ¬ ({ (landing (.sreg false 6 7)).me with pend := [] } : Ctx).sregPending false 6 ∧
    56 ≤ (56 : SReg).toNat := by decide +kernel

theorem witness_ResultsLand_slab : let k := (landing (.slab [1] [(2048, 7)] [])).coreAt 0
    k.writerBefore 0 1 0 = false ∧ k.readerBefore 0 1 0 = false ∧ (([(2048, 7)] : List Host.Cell).map (·.1)).Nodup := by decide +kernel

theorem witness_ResultsLand_load : let s := landing (.load false 6 [(0x200000, .tracked 0)] false 0)
    s.storeBefore 0 0 0 [(0x200000, .tracked 0)] = false ∧
    (s.modCoh fun h => { h with lines := [(0x8000, { LineSt.reset with rats := [0], port := [0] })] }).Held 0 .scalar
      [(0x200000, .tracked 0)] := by
  simp only [State.Held]; decide +kernel

/-- v4 starts with the largest T12 number, which saturates in the T6 rung; its budget is 0. -/
theorem witness_MatrixCommands_beyond :
    let m : MatCmd := { matCmd .ad { MatrixRegs.reset with mlim := 1, sat6 := 0, cont := true } with begun := some 0 }
    let s := base.modMyCore fun k => { k with cycle := 500, matQ := [m], df := [(8192, 0xFF), (8193, 0x07)] }
    let k := (s.matBegun 0).coreAt 0
    (k.rungNow.map fun m => decide (m.decided = false ∧ m.mx.mlim.toNat ≠ 0 ∧ m.rung < 2 ∧ m.mx.sat6 ≠ 0x1FFF ∧
      m.mx.sat6.toNat < (m.monitors k).1)) = some true := by decide +kernel

theorem witness_MatrixCommands_ceiling :
    let m : MatCmd := { matCmd .ad { MatrixRegs.reset with mlim := 1, und8 := 0, sat8 := 0, can8 := 0, cont := true } with
      begun := some 0, rung := 1 }
    let s : State := { base.modMyCore fun k => { k with cycle := 500, matQ := [m], df := [(8192, 0x7F)] } with variant := .hx920 }
    let k := (s.matBegun 0).coreAt 0
    (k.rungNow.map fun m => decide (m.rung = 1 ∧ s.hasT12 = false ∧ (m.mx.sat8.toNat < (m.monitors k).1 ∨
      m.mx.und8.toNat < (m.monitors k).2.1 ∨ m.mx.can8.toNat < (m.monitors k).2.2))) = some true := by decide +kernel

/-! ### Host commands -/

def cmd0 : Cmd := ⟨0, 0⟩

/-- Ring 0 at 1 MiB offers one entry with the opcode and TAG 0. -/
def offering (op : Nat) (s : State) : State :=
  { s.modRing 0 fun r => { r with base := 0x100000, size := 1, enable := true, tail := 1 } with mem := cellWrite s.mem 0x100000 (leBytes 2 op) }

theorem witness_Offers : ∀ op ∈ [0x01, 0x02, 0x10, 0x11, 0x18, 0x19, 0x1A, 0x20, 0x21, 0x22, 0x28, 0x29, 0x2A, 0x2B, 0x30, 0x38, 0x39, 0x3A
    , 0x40, 0x41, 0x48, 0x49, 0x50],
    let s := offering op base
    s.dev.funcReady.getLsbD 31 = true ∧ (s.ringAt 0).enable = true ∧ (s.ringAt 0).head ≠ (s.ringAt 0).tail ∧ s.ringStarted 0 = false ∧ s.ringTurn 0 = true ∧
    cellNat s.mem ((s.ringAt 0).base.toNat + 64 * (s.ringAt 0).head) 8 = op + 2 ^ 16 * cmd0.tag.toNat := by decide +kernel

theorem witness_CommandProtocol : (255 : Nat) < 256 ∧ Memory.wf base.mem = true ∧ State.reset.dev.funcReady.getLsbD 31 = false ∧
    (base.ringAt 0).enable = false ∧ (base.ringAt 1).head = (base.ringAt 1).tail ∧
    (devIs fun d => { d with started := [⟨cmd0, .wings 0⟩] }).ringStarted 0 = true ∧
    -- rings 0 and 1 both wait, and the turn is ring 1's
    (((offering 0x48 base).modRing 1 fun r => { r with base := 0x100000, size := 1, enable := true, tail := 1 }).modDev fun d =>
      { d with nextRing := 1 }).ringTurn 0 = false ∧
    lineOf 64 ∉ base.coh.poison ∧
    ((offering 0x0101 base).canTake cmd0 1 = true ∧ bits 0x0101 15 8 ≠ 0) := by decide +kernel

theorem witness_CommandsOnDevice : Memory.wf (offering 0x48 base).mem = true ∧ (offering 0x48 base).coh.poison = [] ∧
    base.dev.keys[(0 : Byte).toNat]? = some .usable ∧ base.dev.keys[(8 : Byte).toNat]? ≠ some .usable ∧
    ([(1, 0, 1)] : List Route).map (·.1) = [1] ∧ ¬ (([(1, 0, 1), (1, 1, 1)] : List Route).map (·.1)).Nodup ∧
    (0 : BitVec 16).toNat < (devIs fun d => { d with fused := 1 }).dev.fused.toNat ∧ base.dev.fused.toNat ≤ (0 : BitVec 16).toNat ∧
    (base.dev.launched = false ∧ (devIs fun d => { d with launched := true }).dev.launched = true) ∧ (2 : Nat) ^ 22 = 4194304 ∧
    (∀ i, i ≤ 22 → 3 ≠ 2 ^ i) ∧
    (base.linkFitted 0 = true ∧ base.dev.links[0].up = false ∧
      (devIs fun d => { d with links := d.links.set 0 ⟨true, true, false, 0, 0⟩ }).dev.links[0].up = true) ∧
    17 * 1000 * 2 < 2 * (5 * 7000) + 17 * 200 ∧ ¬ 17 * 1000 * 256 < 2 * (base.dev.maxHops * 7000) + 17 * 200 ∧
    base.timeNs ≤ 0 ∧ scanned.timeNs = 200000 := by decide +kernel

/-- A tensor of one byte in device memory, with one leaf of 64 KiB. -/
def mapOne (id : BitVec 16) : TensorParams :=
  { tid := id, rank := 0, fmt := 0, geom := 0, plane := 0, device := 0, dims := Vector.replicate 4 1, large := false, w := true, so := false
    ut := false, c := true, lclass := 0, frames := [0x40] }

theorem witness_CommandsOnImagesAndTensors_tensors :
    paramsBad { mapOne 9 with fmt := 12 } 0 = true ∧ paramsBad (mapOne 9) 0 = false ∧ base.mapRefused (mapOne 9) = false ∧
    base.mapRefused (mapOne 1) = true ∧ (base.mapTensor (mapOne 9)).isSome = true ∧
    ((devIs fun d => { d with tablesTop := 0x2C00000000 }).mapTensor (mapOne 9)).isNone = true ∧
    (base.mapTensor { mapOne 9 with device := 3 }).isSome = true ∧
    ((base.descOf 1).valid = true ∧ (base.descOf 9).valid = false) ∧ (base.descOf 1).device = base.dev.devNo.toNat ∧
    base.dev.tablesTop ≤ descAddr 0 ∧ base.usersDone (base.usersOf 1 (base.leavesAll 1)) = true ∧
    (let s := meIs fun v => { v with recs := [(0x8000, 1)] }
     s.usersDone (s.usersOf 1 (base.leavesAll 1)) = false) ∧ (base.leavesAll 1).length = 1 ∧
    0 + 1 ≤ base.leavesOf (base.descOf 1) ∧ ¬ 1 + 1 ≤ base.leavesOf (base.descOf 1) ∧
    (base.leafRange (base.descOf 1) 0 1).map (fun e => base.leafOk e.2.large { e.2 with w := true, ut := false }) = [true] ∧
    (base.leafRange (base.descOf 1) 0 1).map (fun e => base.leafOk e.2.large { e.2 with w := true, ut := true }) = [false] := by
  decide +kernel

/-- At 2 MiB an image of one bundle, its signature at 128 (R343). -/
def withImageFile : State := { base with mem := memWith [(0x200000, 0x46), (0x200001, 0x52), (0x200002, 0x4C), (0x200003, 0x4E), (0x200004, 1)
    , (0x200010, 64), (0x200014, 4), (0x200030, 128), (0x200034, 0xC0), (0x200035, 0x12)] }
def anImage (id : Nat) : Image := ⟨id, 1, false, [0, 0, 0, 0], none, [], 0, 0⟩

theorem witness_CommandsOnImagesAndTensors_load : let s := offering 0x10 withImageFile
    let bs := cellBytes s.mem 0x200000 4800
    imageWf bs 4800 = true ∧ profilesOk bs = true ∧ s.dev.keys[imgField bs 0x38 1]? = some .usable ∧ (tlistOf bs).map declOf = [] ∧ s.dieReady false = true ∧
    ({ s with dev := { s.dev with funcReady := 0x80000000 } } : State).dieReady false = false ∧ imageWf bs 4799 = false ∧
    ((s.takeEntry cmd0).placeData [] ((bs.drop (imgField bs 0x18 4)).take (imgField bs 0x1C 4))).map (·.1) = some none := by decide +kernel

/-- Of a slot that no key uses the signature fails; of fused slot 0 it is what the check of the key answers. -/
theorem witness_CommandsOnImagesAndTensors_signed (bs : List Byte) (n : Nat) : base.signed 8 bs n = false ∧
    base.signed 0 bs n = Config.verify (Config.fusedKey 0) (sha3 (bs.take n)) (BitVec.ofNat 37016 (imgField bs n 4627)) := by
  constructor
  · rw [State.signed, show base.keyOf 8 = none by rfl]
  · rw [State.signed, show base.keyOf 0 = some (Config.fusedKey 0) by rfl]

theorem witness_CommandsOnImagesAndTensors_profile : profilesOk (List.replicate 8 0 ++ [2, 0, 0, 0]) = false := by decide +kernel

theorem witness_CommandsOnImagesAndTensors_free : (withImageFile.freeImage = some 1) ∧
    ({ base with images := ((List.range 65535).map (· + 1)).map anImage } : State).freeImage = none := by
  refine ⟨?_, ?_⟩
  · rw [State.freeImage, List.find?_map, show List.range 65535 = List.range (65534 + 1) from rfl, List.range_succ_eq_map]
    rfl
  · rw [State.freeImage, List.find?_eq_none]
    intro i hi
    simp only [Bool.not_eq_true', Bool.not_eq_false, List.any_eq_true]
    exact ⟨anImage i, List.mem_map.2 ⟨i, hi, rfl⟩, by simp [anImage]⟩

theorem witness_CommandsOnImagesAndTensors_unload : (∀ m ∈ base.images, m.id ≠ 1) ∧
    (let s : State := { offering 0x11 base with images := [anImage 1] }
     s.images.find? (fun m => m.id == 1) = some (anImage 1) ∧ (anImage 1).dataTid = none ∧ ∀ t ∈ s.tasks, t.tr.imgId ≠ 1) ∧
    (∃ t ∈ ({ base with tasks := [{ aTask with tr := { TaskRec.reset with img := some 1 } }] } : State).tasks, t.tr.imgId = 1) ∧
    ({ anImage 1 with dataTid := some 1 }).dataTid = some 1 := by decide +kernel

def attrs (cap : BitVec 16) : QueueAttrs := ⟨false, 0, cap, ⟨1, 9⟩, ⟨1, 9⟩, ⟨1, 9⟩⟩
/-- Queue 3 of die 0 exists, with room for cap tasks, and image 1 is loaded there. -/
def queued (cap : Nat) : State := { base.modQueue false 3 fun q => { q with active := true, cap := BitVec.ofNat 16 cap } with images := [anImage 1] }
/-- A record of an image id and an entry offset at 2 MiB. -/
def recordAt (id : Byte) (s : State) : State := { s with mem := memWith [(0x200000, 1), (0x200002, id)] }
def downDie : State := devIs fun d => { d with funcReady := 0x80FFFFFF }

theorem witness_CommandsOnQueuesAndDies_queues : (63 : Byte).toNat ≤ 63 ∧ 63 < (64 : Byte).toNat ∧ 1 ≤ (attrs 4096).cap.toNat ∧
    (attrs 4096).cap.toNat ≤ 4096 ∧ ¬ 1 ≤ (attrs 0).cap.toNat ∧ base.dieReady false = true ∧ downDie.dieReady false = false ∧
    (base.queueAt false 3).active = false ∧ ((queued 1).queueAt false 3).active = true ∧ (attrs 1).timed = false ∧ base.dieFitted false = true ∧
    ({ base with variant := .hx920 } : State).dieFitted true = false := by decide +kernel

theorem witness_CommandsOnQueuesAndDies_launch : (queued 1).queueUp false 3 = true ∧ base.queueUp false 3 = false ∧
    ((queued 0).queueAt false 3).cap.toNat ≤ (queued 0).queueCount false 3 ∧
    ¬ (((queued 1).queueAt false 3).cap.toNat ≤ (queued 1).queueCount false 3 ∨ 16384 ≤ (queued 1).tableCount false) ∧
    (let rec_ (id : Byte) := let s := offering 0x22 (recordAt id (queued 1))
       s.recordOk (expandRecord (s.queueAt false 3).base (cellBytes s.mem 0x200000 (recordLen (cellNat s.mem 0x200000 2)))) false
     rec_ 1 = true ∧ rec_ 2 = false) := by decide +kernel

theorem witness_CommandsOnQueuesAndDies_dies : (ScanPolicy.reset).maxAbort ≠ 0 ∧ ({ ScanPolicy.reset with maxAbort := 0 }).maxAbort = 0 ∧
    base.hasFailover = true ∧ ({ base with variant := .hx920 } : State).hasFailover = false ∧ base.dieReady true = true ∧
    base.dieRuns false = true ∧ base.dieRuns true = false ∧ base.targetCore (dieOf 0) (pcoreOf 0) = some 0 ∧
    base.targetCore (dieOf 1) (pcoreOf 1) = none ∧
    (0x0FFF : BitVec 16).toNat < 4096 ∧ 4096 ≤ (0x1000 : BitVec 16).toNat ∧ base.physicalOf false 0 = some 0 ∧
    ({ base.modDie false fun d => { d with lcmap := d.lcmap.set 0 0x80 } with images := [] } : State).physicalOf false 0 = none ∧
    ((12 : BitVec 5) = 0 ↔ RClass.shared = RClass.opn) ∧ ¬ ((1 : BitVec 5) = 0 ↔ RClass.opn = RClass.opn) ∧ 12 < (13 : BitVec 5).toNat ∧
    ((((base.dieAt false).routes.filter fun r => r.1 != 0) ++ [((0 : CoreId), (12 : BitVec 5))]).map fun r => r.2.toNat).sum ≤ 12 ∧
    base.timedRoutes false 0 < 16 := by decide +kernel

/-- Sixteen cores of die 0 have TIMED routes. -/
def timedRoutes16 : State := { base with cores := Vector.ofFn fun i => { base.cores[i.val] with rclass := if 1 ≤ i.val ∧ i.val ≤ 16 then .timed else .opn } }
theorem witness_CommandsOnQueuesAndDies_timed : 16 ≤ timedRoutes16.timedRoutes false 0 := by decide +kernel

/-- A running order of one segment, IMAGE 1, COST 1, at 2 MiB, for the timed core 1. -/
def ordered : State := (recordAt 0 (queued 1)).modCore 1 fun k => { k with timed := true, ready := true }
def orderTable (s : State) : State := { s with mem := memWith [(0x200000, 1), (0x20000A, 1), (0x200010, 1)] }

theorem witness_CommandsOnCores : ordered.coresOf false 2 = some [1] ∧ base.coresOf false 2 = none ∧ base.coresOf false 1 = some [0] ∧
    base.targetCore false 1 = none ∧ base.targetCore false 0 = some 0 ∧ ordered.targetCore (dieOf 1) (pcoreOf 1) = some 1 ∧
    (base.coreAt 0).wings = false ∧ (base.modDie false fun d => { d with lcmap := d.lcmap.set 1 0x80 }).coresOf false 2 = none ∧ (base.coreAt 0).allFree = false ∧
    (base.coreAt 1).allFree = true ∧ base.physicalOf false 1 = some 1 ∧ (base.coreAt 0).retiring = none ∧ (base.coreAt 0).timed = false ∧
    (ordered.coreAt 1).timed = true ∧ (base.ctxAt 0 0).halted = false ∧
    (let s := meIs fun v => { v with halted := true }
     (s.ctxAt 0 0).halted = true ∧ (s.ctxAt 0 0).after ≠ .halt ∧ (s.ctxAt 0 0).task = some 0 ∧ s.taskAt 0 = some aTask) := by decide +kernel

theorem witness_CommandsOnCores_order : let s := offering 0x29 (orderTable ordered)
    let head := cellNat s.mem 0x200000 8
    let rows := (List.range (head % 65)).map fun i => cellBytes s.mem (0x200000 + 8 + 32 * i) 32
    let imgs := orderImages (rows.map segmentOf)
    ((s.coreAt 1).timed = true ∧ s.orderOk false head rows = true) ∧ imgs = [1] ∧ ((s.takeEntry cmd0).loadImages 1 imgs imgs).isSome = true ∧
    s.orderOk false 0 [] = false ∧
    (let t : State := { s with images := [anImage 1, anImage 2] }
     (((t.modCore 1 fun k => { k with ctxs := k.ctxs.map fun v => { v with occ := .running, r := { v.r with pc := 0 } }, resid := #v[some 2, some 3] }).modCtx 1 1
       fun v => { v with r := { v.r with pc := 0x8000 } }).loadImages 1 imgs imgs).isNone = true) := by decide +kernel

/-- The entry of a retirement names core 0, and not core 1, of die 0. -/
theorem witness_CommandsOnCores_retire : (offering 0x38 base).retireNamed cmd0 false 0 = true ∧
    (offering 0x38 base).retireNamed cmd0 false 1 = false := by decide +kernel

/-! ### Reports, registers, scheduling -/

theorem witness_DetectorReports : (1 ≤ (0x0A : Byte).toNat ∧ (0x0A : Byte).toNat ≤ 0x0A) ∧ 0x0E < (0x0F : Byte).toNat ∧
    (0 = (base.ctxAt 0 0).region ∧ 1 ≠ (base.ctxAt 0 0).region ∧ (base.ctxAt 0 0).opened = true ∧ (base.ctxAt 0 0).pastHorizon = false) ∧
    ((owns base).modCoh fun h => { h with lines := h.lines.map fun p => (p.1, p.2.setL1d 0 ⟨256, true, true, true⟩) }).dirtyCopy 0x03 0 0x8000 = true ∧
    ({ base with variant := .hx920 } : State).hasFailover = false ∧ base.dieFitted false = true ∧ base.dieReady false = true ∧ (base.ctxAt 0 0).run < 2 ∧
    2 ≤ ((meIs fun v => { v with run := 2 }).ctxAt 0 0).run ∧ ¬ (committed.ctxAt 0 0).opened = true ∧
    committed.dirtyCopy 0x0A 0 0 = false ∧ ({ base with log := { base.log with ctl := 0 } } : State).log.celog = false ∧ base.hasFailover = true := by decide +kernel

/-- A trapped rollback has ended attempt 1 of the region. -/
theorem witness_DetectorReports_trapped : let v := ((meIs fun v => { v with trapOf := some 1 }).ctxAt 0 0)
    1 ≠ v.region ∧ v.trapOf = some 1 ∧ v.trapOf ≠ some 2 ∧ v.run < 2 := by decide +kernel

theorem witness_RegistersWritten :
    ({ base with log := { base.log with entries := [coreEntry 0x29 3 0 0 0 0] } } : State).log.entries = [coreEntry 0x29 3 0 0 0 0] ∧
    base.log.entries = [] ∧ 0x17F8 / 8 * 8 = 0x17F8 ∧ 0x257F / 8 * 8 < 0x2580 ∧ 0x2108 + 0x20 * (3 : BitVec 2).toNat = 0x2168 ∧
    ((devIs fun d => { d with rings := d.rings.set 0 { Ring.reset with enable := true } }).ringAt 0).enable = true ∧
    ((devIs fun d => { d with rings := d.rings.set 0 { Ring.reset with busy := true } }).ringAt 0).busy = true ∧
    (base.ringAt 0).enable = false ∧ (base.ringAt 0).busy = false := by decide +kernel

/-- Task 0 is PARKED in context 0 and READY. -/
def parkedTask : State := { meIs fun v => { v with occ := .parked, opened := false } with tasks := [{ aTask with st := .ready }] }

theorem witness_StageManagerEvents : (base.ctxAt 0 0).occ = .running ∧ (base.coreAt 0).timed = false ∧ (base.ctxAt 0 1).occ ≠ .running ∧
    (ordered.coreAt 1).timed = true ∧ parkedTask.canResume 0 0 = true ∧ (parkedTask.ctxAt 0 0).uiReady = false ∧
    (parkedTask.ctxAt 0 0).task = some 0 ∧ (parkedTask.taskAt 0).isSome = true ∧ base.canResume 0 0 = false ∧
    ((coreIs fun k => { k with debits := [⟨false, 3, 1, 1, 1⟩] }).coreAt 0).debits = [⟨false, 3, 1, 1, 1⟩] ∧
    ((queued 1).queueAt false 3).timed = false ∧ (base.queueAt false 0).active = false ∧
    (∃ k ∈ ({ base with tasks := [{ aTask with st := .parked, why := .bucket }] } : State).tasks, k.st = .parked ∧ k.why = .bucket ∧
      base.taskBroke k = false) := by decide +kernel

theorem witness_StageManagerEvents_debits :
    (([⟨false, 3, 1, 1, 1⟩, ⟨false, 4, 2, 2, 2⟩] : List Debit).map fun d => (d.die, d.queue)).Nodup := by decide

theorem witness_StageManagerEvents_save : (∀ y : CtxId, ((withArea .parked).ctxAt 0 y).occ ≠ .free) ∧
    (∃ t ∈ (withArea .parked).tasks, (withArea .parked).waitsOn (dieOf 0) t = true ∧ (withArea .parked).eligible (dieOf 0) t 0 = true) := by
  decide +kernel

theorem witness_StageManagerEvents_saved : ((withArea .parked).coreSave 0 1).1 = true := by
  have b : ((withArea .parked).coreAt 0).saveBase[(1 : CtxId).toNat] = 0x1000000000000 := by decide +kernel
  have u : ((withArea .parked).coreAt 0).partUnits 1 = 1 := by decide +kernel
  have o : ¬ ((0x1000000000000 : Word) = 0 ∨ (((withArea .parked).coreAt 0).ctxAt 1).occ ≠ .parked ∨
      ((withArea .parked).coreAt 0).fillsOf 1 = true) := by decide +kernel
  rw [State.coreSave]
  simp only [b, u, if_neg o]
  rw [show (0x1000000000000 : Word).toNat = 0x1000000000000 from rfl, witness_area]

/-- Die 0 places tasks: one waits, image 1 is loaded, core 0 has FREE contexts. -/
def places : State := { base with images := [anImage 1], tasks := [waitingTask] }

theorem witness_TaskPlacement : places.dieReady false = true ∧ (places.dieAt false).stopPlacing = false ∧
    places.headOrder false = [waitingTask] ∧ places.pickCore false waitingTask = some (0, true) ∧
    places.freeFor 0 waitingTask = some 1 ∧ waitingTask.saved = none ∧ places.imageOn waitingTask.tr.imgId false = some (anImage 1) ∧
    waitingTask.tr.cast = 0 ∧ (waitingTask.tr.aff = 0 ∧ places.logicalOf 0 = some 0) := by decide +kernel

/-- A timed core with one segment of 10, 5 and 5 cycles in context 0. -/
def segment : Segment := ⟨0, false, 3, 1, 0, 10, 5, 5, 0x1000000000000⟩
def orderIs (started live : Bool) (cycle : Nat) : State :=
  coreIs fun k => { k with timed := true, cycle := cycle, order := some ⟨[segment], 0, 0, 0, started, live, false⟩ }
/-- Context 0 of the timed core is FREE, or holds a PARKED task. -/
def slotFree : State := { (orderIs false false 0).modCtx 0 0 fun v => { v with occ := .free, task := none } with images := [anImage 1] }
def slotParked (st : TaskSt) : State := { (orderIs false false 0).modCtx 0 0 fun v => { v with occ := .parked } with tasks := [{ aTask with st := st }] }

theorem witness_TimedCores : ((orderIs false false 0).coreAt 0).order = some ⟨[segment], 0, 0, 0, false, false, false⟩ ∧
    (slotFree.segmentDue 0 = true ∧ (slotFree.ctxAt 0 0).occ = .free ∧ segment.fromQueue = false) ∧
    ((slotParked .ready).segmentDue 0 = true ∧ ((slotParked .ready).ctxAt 0 0).occ = .parked ∧
      ((slotParked .ready).taskOf 0 0).map (·.st) = some .ready ∧ ((slotParked .ready).ctxAt 0 0).uiReady = false) ∧
    ((slotParked .parked).taskOf 0 0).map (·.st) = some .parked ∧ slotFree.segmentQueued 0 0 3 = none ∧
    ((slotFree.imageOn 1 false).isSome = true) ∧
    ((slotFree.modCore 0 fun k => { k with resid := #v[some 1, none] }).residentIn 0 false 1 = true) ∧
    ((orderIs true true 20).ctxAt 0 0).cm.phase ≠ .merge ∧
    (((orderIs true true 20).modCtx 0 0 fun v => { v with cm := { v.cm with phase := .merge } }).ctxAt 0 0).cm.phase = .merge ∧
    (slotFree.segmentArgs 0 0 0x3000000000000).isNone = true := by decide +kernel

theorem witness_TimedCores_more : slotFree.bothHeld 0 = false ∧ ((orderIs true true 20).ctxAt 0 0).cm.phase ≠ .ordered ∧
    (((orderIs true true 20).modCtx 0 0 fun v => { v with cm := { v.cm with phase := .ordered } }).ctxAt 0 0).cm.phase = .ordered := by
  decide +kernel

theorem witness_TimedCores_args : (slotFree.keysOf false ((List.range 64).map fun i => tensorByte 0x1000000000000 0 i)).toOption.isSome = true := by
  decide +kernel

theorem witness_TimedCores_trap : ((((orderIs true true 15).coreAt 0).order).map fun o => (o.started, o.live, o.trapped)) = some (true, true, false) ∧
    0 + 10 + 5 ≤ ((orderIs true true 15).coreAt 0).cycle ∧ ((orderIs true true 15).ctxAt 0 0).opened = true ∧
    ((orderIs true true 15).ctxAt 0 0).tr.installed = true ∧ ((orderIs true true 15).ctxAt 0 0).ckpt.active = false ∧
    0 + (10 + 5 + 5) ≤ ((orderIs true false 20).coreAt 0).cycle ∧ ((orderIs true true 19).coreAt 0).cycle < 0 + (10 + 5 + 5) ∧
    ((orderIs true true 20).ctxAt 0 0).task = some 0 ∧
    ((devIs fun d => { d with toEnts := [⟨0, 1, 1⟩] }).dev.toEnts = [⟨0, 1, 1⟩] ∧ (0 : Word).toNat ≤ base.timeNs) ∧
    base.timeNs < (1 : Word).toNat := by decide +kernel

/-! ### Token coherence -/

/-- What core 0's context 0 has asked for: line 5, for a scalar access with a gather bound of 120. -/
def asked5 (kind : ReqKind) : OutReq := ⟨⟨5, 0, kind, 1, true⟩, 0, 120, .scalar, false⟩
/-- Line 5: the home and the slices as given, of which die 0's keeps a way for it; core 0's context 0 has asked for it. -/
def line5 (l : LineSt) (kind : ReqKind) : State := (base.modDie false fun d => { d with l2 := [(5, 0)] }).modCoh fun h => { h with
  lines := [(5, l)], outs := [asked5 kind] }
def inSlice (n : Nat) (owner : Bool) : LineSt := { LineSt.reset with home := ⟨256 - n, !owner, false, true⟩, slices := [(false, ⟨n, owner, false, true⟩)] }

theorem witness_TokenRequests : (line5 (inSlice 2 false) .rd).activeOf 5 = none ∧ rqIsCore 511 = true ∧ rqIsCore 0 = true ∧
    (let s := line5 (inSlice 2 false) .rd
     2 ≤ (s.lineAt 5 |>.sliceHold false).count ∧ (s.lineAt 5 |>.sliceHold false).valid = true ∧
       (assoc (s.dieAt (dieOf (rqCore 0))).l2 5).isSome = true) ∧
    ((line5 (inSlice 1 false) .rd).lineAt 5 |>.sliceHold false).count < 2 ∧
    ((line5 (inSlice 256 true) .rdx).lineAt 5 |>.sliceHold false).count = 256 ∧
    (let s := line5 (inSlice 0 false) .rd
     (s.lineAt 5).st = .idle ∧ (s.lineAt 5).wbPend = false ∧ (s.lineAt 5).waiting = [] ∧ s.needsSweep 5 = false ∧
       s.outOf 0 5 = some (asked5 .rd) ∧ (asked5 .rd).converted = false ∧ (asked5 .rd).use ≠ .home ∧
       (s.lineAt 5).home.owner = true ∧ 2 ≤ (s.lineAt 5).home.count) ∧
    -- the home has no owner token, and the directory hints at its holder or at none
    (let s := line5 (inSlice 1 true) .rd
     (s.lineAt 5 |>.sliceHold false).owner = true ∧ (s.lineAt 5).home.owner = false ∧ (∀ t, s.hintOf 5 = some t → t.owner = none) ∧
       (s.modCoh fun h => { h with dir := [(5, ⟨true, false, some false⟩)] }).hintOf 5 = some ⟨true, false, some false⟩) ∧
    ((line5 (inSlice 255 false) .rd).lineAt 5).home = ⟨1, true, false, true⟩ := by
  refine ⟨rfl, rfl, rfl, ?_, ?_, ?_, ?_, ⟨?_, ?_, ?_, ?_⟩, ?_⟩ <;> decide +kernel

theorem witness_TokenRequests_cnv : (0 : Rq) ∉ (LineSt.reset).cnv ∧ (0 : Rq) ∈ ({ LineSt.reset with cnv := [0] } : LineSt).cnv ∧
    (let s := line5 { LineSt.reset with st := .gather, serving := some ⟨5, 0, .upg, 1, true⟩, waiting := [⟨5, 1, .upg, 1, true⟩] } .upg
     (s.lineAt 5).serving = some ⟨5, 0, .upg, 1, true⟩ ∧ ⟨5, 1, .upg, 1, true⟩ ∈ (s.lineAt 5).waiting) ∧
    (let s := line5 (inSlice 2 false) .upg
     (∀ q, (s.lineAt 5).serving = some q ∨ q ∈ (s.lineAt 5).waiting → q.rq ≠ 0) ∧ s.outOf 0 5 = some (asked5 .upg)) ∧
    (let s := base.modCoh fun h => { h with lines := [(5, { LineSt.reset with rats := [1], lent := [1] })] }
     let m : TokMsg := ⟨5, 0, 1, false, false, true, some 1⟩
     s.outOf 0 5 = none ∧ m.lender = some 1 ∧ 0 < m.count ∧ (1 : CoreId) ∈ (s.lineAt 5).lent) := by
  refine ⟨by decide, by decide, by decide +kernel, ⟨fun q h => ?_, by decide +kernel⟩, by decide +kernel⟩
  rw [show ((line5 (inSlice 2 false) .upg).lineAt 5).serving = none by decide +kernel,
    show ((line5 (inSlice 2 false) .upg).lineAt 5).waiting = [] by decide +kernel] at h
  exact h.elim nofun nofun

theorem witness_TokenRequests_answer : let s := line5 (inSlice 0 false) .rd
    let m : TokMsg := ⟨5, 0, 1, false, false, true, none⟩
    s.outOf 0 5 = some (asked5 .rd) ∧ m.count = 1 ∧ m.owner = false ∧ m.data = true ∧
    (0 : CoreId) ∉ (s.lineAt 5).rats ∧ (asked5 .rd).use = .scalar ∧ (s.lineAt 5).nc = false ∧ (0 : CoreId) ∉ (s.lineAt 5).lent ∧
    ((s.coreAt (rqCore 0)).l1d.filter fun k => l1dSet k == l1dSet 5).length < 4 ∧
    (let t := s.modCoh fun h => { h with outs := [{ asked5 .rd with use := .engine }] }
     (t.outOf 0 5).map (·.use) = some .engine ∧ (0 : CoreId) ∉ (t.lineAt 5).rats) ∧
    base.outOf 0 5 = none ∧ ({ m with lender := some 1 }).lender = some 1 ∧
    (let t := line5 { LineSt.reset with st := .gather, serving := some ⟨5, 0, .rd, 1, true⟩ } .rd
     (t.lineAt 5).serving = some ⟨5, 0, .rd, 1, true⟩ ∧ (t.lineAt 5).st ≠ .persist ∧ (t.lineAt 5).waiting = [] ∧
     t.coh.homeOps = []) := by decide +kernel

theorem witness_TokenRequests_forward : let s := line5 { (inSlice 2 true) with st := .forward } .rd
    (s.lineAt 5).st = .forward ∧ ((s.lineAt 5).sliceHold false).owner = true ∧ 2 ≤ ((s.lineAt 5).sliceHold false).count ∧
    (let t := line5 (inSlice 1 true) .rd
     (t.lineAt 5).st ≠ .forward ∧ ((t.lineAt 5).sliceHold false).count = 1 ∧ ((t.lineAt 5).sliceHold false).owner = true) ∧
    ((line5 (inSlice 1 false) .rd).lineAt 5 |>.sliceHold false).owner = false := by decide +kernel

theorem witness_WriteBacksAndConversion : base.activeOf 5 = none ∧ (base.lineAt 5).serving = none ∧ (base.lineAt 5).waiting = [] ∧
    base.coh.homeOps = [] ∧
    (let l : LineSt := { LineSt.reset with rats := [0], lent := [0] }; (0 : CoreId) ∈ l.rats ∧ (0 : CoreId) ∈ l.lent ∧ l.lent.Nodup) ∧
    (let s := (line5 { LineSt.reset with l1d := [(0, ⟨1, false, false, true⟩)] } .rd).modCore 0 fun k => { k with l1d := [5] }
     (0 : CoreId) ∉ (s.lineAt 5).rats ∧ (s.lineAt 5).nc = false ∧ 5 ∈ (s.coreAt 0).l1d ∧ s.utL1d 0 5 = none) ∧
    (let s := line5 { LineSt.reset with st := .gather, serving := some ⟨5, 0, .rd, 1, true⟩ } .rd
     s.outOf 0 5 = some (asked5 .rd) ∧ (asked5 .rd).req.cmt = true ∧ rqIsCore 0 = true ∧ (asked5 .rd).use ≠ .home ∧
       (s.lineAt 5).coreTokens (rqCore 0) ≠ 256 ∧ ¬ 0 + 120 + 200 ≤ (s.coreAt 0).cycle ∧
       0 + 120 + 200 ≤ ((s.modCore 0 fun k => { k with cycle := 320 }).coreAt (rqCore 0)).cycle) ∧
    (⟨5, 0, .rd, 1, false⟩ : Req).cmt = false ∧ (512 : Rq).toNat ≠ 514 ∧ base.outOf 0 5 = none ∧
    -- a request of the home for the host, with a bound of 760 from time 0
    0 + ((760 + 200) * 10 + 16) / 17 ≤ (devIs fun d => { d with tb := { d.tb with units := 9605 } }).timeNs ∧
    ¬ 0 + ((760 + 200) * 10 + 16) / 17 ≤ (devIs fun d => { d with tb := { d.tb with units := 9604 } }).timeNs := by decide +kernel

theorem witness_WriteBacksAndConversion_serves : let q : Req := ⟨5, 0, .rdx, 1, true⟩
    let s := line5 { LineSt.reset with st := .gather, serving := some q } .rdx
    s.activeOf 5 = none ∧ (s.lineAt 5).serving = some q ∧ q.line = 5 ∧ s.stillAsked q = true ∧ s.goesHome q.rq 5 = false ∧
    q.kind ≠ .rd ∧
    -- a commit that has every token of the line is not converted, nor is a read of an untracked line
    (let t := line5 { LineSt.reset with home := Hold.none, l1d := [(0, ⟨256, true, false, true⟩)] } .rdx
     (asked5 .rdx).req.cmt = true ∧ (asked5 .rdx).use ≠ .home ∧ (t.lineAt 5).coreTokens (rqCore 0) = 256) ∧
    ({ asked5 .rd with use := .untracked } : OutReq).use = .untracked := by decide +kernel

/-- An active request for line 5. -/
def active (rq : Rq) : ActiveReq := ⟨⟨5, rq, .rd, 1, true⟩, 0, if rq = 514 then .recreation else .ordinary, 0, [.home]⟩
def persists (rq : Rq) (units : Nat) : State :=
  (devIs fun d => { d with tb := { d.tb with units := units } }).modCoh fun h => { h with
    arb := { h.arb with active := [active rq] }, outs := [{ asked5 .rd with req := ⟨5, rq, .rd, 1, true⟩ }] }

theorem witness_PersistentRequests : (base.activeOf 5 = none ∧ (∀ q ∈ base.coh.arb.waiting, q.line ≠ 5)) ∧
    base.poolOf (active 0).req = .ordinary ∧ (base.coh.arb.active.filter fun b => b.pool == .ordinary).length < 64 ∧
    ((persists 0 0).activeOf 5 = some (active 0) ∧ (active 0).req.line = 5 ∧ ∀ b ∈ (persists 0 0).coh.arb.active, (active 0).act ≤ b.act) ∧
    (rqIsCore (active 0).req.rq = true ∧ (persists 0 0).goesHome 0 5 = false) ∧
    (persists 0 0).coh.arb.waiting = [] ∧ (∀ b ∈ (persists 0 0).coh.arb.active, b.req.line = 5 → b.req.rq = (active 0).req.rq) ∧
    (active 0).req.rq.toNat ≠ 514 ∧ (active 514).req.rq.toNat = 514 ∧
    ((active 0).sinceNs + (8000 * 10 + 16) / 17 ≤ (persists 0 80002).timeNs ∧ (persists 0 80002).log.entries.length < 48 ∧
      ((persists 0 80002).coh.arb.active.filter fun b => b.pool == .recreation).length < 4) ∧
    (active 514).sinceNs + (3200 * 10 + 16) / 17 ≤ (persists 514 32011).timeNs ∧ ¬ (active 0).sinceNs + 4706 ≤ (persists 0 80001).timeNs ∧
    ((persists 514 32011).coh.homeOps = [] ∧ Memory.wf (persists 514 32011).mem = true) ∧
    -- the owner token is lost, and memory has the line as it was or as it is
    ((line5 { inSlice 1 true with stale := some 7 } .rd).lineAt 5 |>.home.owner) = false ∧
    ((line5 { inSlice 1 true with stale := some 7 } .rd).lineAt 5).stale = some 7 ∧ ((line5 (inSlice 1 true) .rd).lineAt 5).stale = none ∧
    (let s := line5 { LineSt.reset with st := .persist } .rd; (s.lineAt 5).st = .persist ∧ (s.lineAt 5).waiting = [] ∧ s.coh.homeOps = []) ∧
    ((line5 (inSlice 2 false) .rd).modDie true fun d => { d with failed := true }).needsSweep 5 = true ∧ base.needsSweep 5 = false := by
  decide +kernel

/-- A second request for the line of an active one waits; die 0 is the requester's, and die 1 has nothing of the line. -/
theorem witness_PersistentRequests_more : ((persists 0 0).ctxAt 0 1).cm.phase ≠ .gather ∧
    (∀ q ∈ (persists 0 0).coh.arb.waiting, q.rq ≠ 1 ∨ q.line ≠ 5) ∧ (∀ b ∈ (persists 0 0).coh.arb.active, b.req.rq ≠ 1 ∨ b.req.line ≠ 5) ∧
    (rqIsCore (active 0).req.rq = true ∧ dieOf (rqCore (active 0).req.rq) = false) ∧ (inSlice 2 false).onDie false = true ∧
    ¬ (rqIsCore (active 0).req.rq = true ∧ dieOf (rqCore (active 0).req.rq) = true) ∧ ((persists 0 0).lineAt 5).onDie true = false ∧
    (∀ q ∈ (persists 0 80002).coh.arb.waiting, q.rq.toNat ≠ 514 ∨ q.line ≠ 5) ∧
    (persists 514 0).recreating 5 = true ∧ (persists 0 0).recreating 5 = false := by decide +kernel

/-! ### Inputs, time, readiness, reset, memory and steps -/

/-- A device that lags a slew, and one that is the time master, 2 s after reset. -/
def clock (master locked : Bool) (slew : Option Int) : State :=
  devIs fun d => { d with tb := { d.tb with units := 34000000000, master := master, locked := locked, slewTo := slew } }

theorem witness_HostAndOtherDevices : Memory.wf base.mem = true ∧ base.hostReach 4 = true ∧ base.hostReach 0x20000000000 = false ∧
    base.lineAt 4 = LineSt.reset ∧ base.coh.homeOps = [] ∧ base.outOf 512 4 = none ∧ base.outOf 513 4 = none ∧
    -- a line of tensor 1 lies at line 0x8000, and tensor 9 is not mapped
    (∀ i, i < 64 → (base.byteKey (0x40000000000 * 64 + i) true).map (·.1) = some (0x8000 * 64 + i)) ∧
    base.byteKey (0x240000000000 * 64) true = none ∧ base.activeOf 4 = none ∧ base.coh.poison.contains 4 = false ∧ base.dev.seqIn[3] = 0 ∧ base.dev.seqIn[3] ≠ 1 ∧
    (0x108 : BitVec 48).toNat % 8 = 0 ∧ (0x108 : BitVec 48).toNat / 64 = 4 ∧ base.rangeOf (0x20000000000 * 64) = .host ∧
    base.rangeOf (4 * 64) ≠ .host ∧
    ((base.modCoh fun h => { h with poison := [4] }).coh.poison.contains 4 = true ∧ BitVec.allOnes 64 = BitVec.allOnes 64) := by
  decide +kernel

/-- A failover has left line 4 unchecked; it is poisoned, and the write is of its first byte; a write of device 3 waits for its
acknowledgement, and is an atomic's or not. -/
theorem witness_HostAndOtherDevices_more :
    (let s := (base.modDie true fun d => { d with failed := true }).modCoh fun h => { h with lines := [(4, inSlice 2 false)] }
     s.hostReach 4 = true ∧ s.coh.homeOps = [] ∧ s.needsSweep 4 = true) ∧
    (base.needsSweep 4 = false ∧ base.recreating 4 = false) ∧
    (let s := base.modCoh fun h => { h with poison := [4] }
     s.lineAt 4 = LineSt.reset ∧ s.coh.homeOps = [] ∧ s.outOf 512 4 = none ∧ s.activeOf 4 = none ∧
       s.coh.poison.contains 4 = true ∧ (1 : BitVec 64) ≠ BitVec.allOnes 64) ∧
    (base.byteKey (0x240000000000 * 64 + 0) true = none ∧ (1 : BitVec 64).getLsbD 0 = true) ∧
    (let s := devIs fun d => { d with unacked := [⟨3, 7, (0, 0), 0, []⟩] }
     let t := s.modMe fun v => { v with infl := some ⟨.nop, 0, 0, none, [], false, none, some (3, 7)⟩ }
     s.dev.unacked.find? (fun w => w.dst == 3 && w.seq == 7) = some ⟨3, 7, (0, 0), 0, []⟩ ∧ (s.ctxAt 0 0).infl = none ∧
       t.dev.unacked.find? (fun w => w.dst == 3 && w.seq == 7) = some ⟨3, 7, (0, 0), 0, []⟩ ∧
       (t.ctxAt 0 0).infl.bind (·.msg) = some (3, 7)) := by decide +kernel

/-- A flit with the CRC of its bytes, and one with another. -/
theorem witness_LinksAndTime_flits (h : BitVec 64) (p : BitVec 1920) :
    (⟨h, p, Config.crc64 (h ++ p), []⟩ : Flit).crc = Config.crc64 (h ++ p) ∧
    (⟨h, p, ~~~Config.crc64 (h ++ p), []⟩ : Flit).crc ≠ Config.crc64 (h ++ p) := by
  refine ⟨rfl, fun e => ?_⟩
  have := congrArg (fun x : BitVec 64 => x.getLsbD 0) e
  simp at this

theorem witness_LinksAndTime : base.dev.links[0].up = false ∧
    ((devIs fun d => { d with links := d.links.set 0 ⟨true, true, true, 7, 0⟩ }).dev.links[0]).retries < 8 ∧
    ((devIs fun d => { d with links := d.links.set 0 ⟨true, true, true, 8, 0⟩ }).dev.links[0]) = ⟨true, true, true, 8, 0⟩ ∧
    ({ base with variant := .hx920 } : State).linkFitted 3 = false ∧ base.linkFitted 3 = true ∧ 8 ∈ [4, 8, 16] ∧ 32 ∈ [8, 16, 32, 64] ∧ 2 ∉ [4, 8, 16] ∧
    (clock true true none).dev.tb.master = true ∧ (clock false true (some 0)).dev.tb.master = false ∧
    (clock false true none).timeNs = 2000000000 ∧ (clock false true none).dev.tb.lastSyncNs + 1000000000 ≤ 2000000000 ∧
    base.timeNs < base.dev.tb.lastSyncNs + 1000000000 ∧ base.timeNs + 1000 - base.timeNs ≤ 1000 ∧ 1000 < base.timeNs + 1001 - base.timeNs ∧
    (∀ g, base.dev.tb.goodSince = some g → base.timeNs < g + 1000000000) ∧ base.dev.tb.locked = false ∧
    (∃ g, ((clock false true none).modDev fun d => { d with tb := { d.tb with goodSince := some 1000000000 } }).dev.tb.goodSince = some g ∧
      g + 1000000000 ≤ (clock false true none).timeNs) ∧ (clock false true (some 0)).dev.tb.locked = true ∧
    (clock false true (some 0)).dev.tb.slewTo = some 0 ∧ base.dev.tb.slewTo ≠ some 0 := by decide +kernel

/-- Core 0 is being retired since time 0; its contexts are as given. -/
def retiring (occ : Occ) : State := coreIs fun k => { k with
  retiring := some ⟨0, false, 0⟩, ctxs := k.ctxs.map fun v => { v with occ := occ, task := none } }
def lostDie (adopted : Bool) : State := (base.modDie false fun d => { d with failed := true, adopted := adopted }).modDev fun d =>
  { d with funcReady := 0x386FFFFFF }

theorem witness_ReadinessAndLoss : 24 ≤ (24 : BitVec 5).toNat ∧ (23 : BitVec 5).toNat < 24 ∧ base.dieFitted false = true ∧
    (base.dieAt false).failed = false ∧ (base.dieAt false).supplied = true ∧
    ((base.modDie false fun d => { d with supplied := false }).dieAt false).supplied = false ∧ 1400 < (base.dieAt false).clockMhz ∧
    base.anyTimed false = false ∧ ordered.anyTimed false = true ∧ (base.ctxAt 0 0).cm.phase ≠ .merge ∧ ((lostDie false).dieAt false).failed = true ∧
    ({ base with variant := .hx920 } : State).dieFitted true = false ∧
    (let s := coreIs fun k => { k with ready := false }
     s.dieReady (dieOf 0) = true ∧ (s.logicalOf 0).isSome = true ∧ (s.coreAt 0).wings = false ∧ (s.coreAt 0).ready = false) ∧
    (base.coreAt 0).ready = true ∧ (0x72 : Byte).toInt < 115 ∧ 115 ≤ (0x73 : Byte).toInt ∧ (0x7A : Byte).toInt = 122 ∧
    125 ≤ (0x7D : Byte).toInt ∧ base.dieReady false = true ∧ base.dieReady true = true ∧ base.hasFailover = true ∧
    (base.dieAt false).failAllow = true ∧ (lostDie false).dieReady false = false ∧
    (((lostDie false).dieAt false).stopped = false ∧ ((lostDie false).dieAt false).adopted = false ∧ (lostDie false).dieReady true = true) ∧
    ({ base with variant := .hx920 } : State).hasFailover = false ∧ 500 ≤ (base.dieAt false).vddMv := by decide +kernel

theorem witness_ReadinessAndLoss_retiring : ((retiring .free).coreAt 0).retiring = some ⟨0, false, 0⟩ ∧
    (∀ x : CtxId, ((retiring .free).ctxAt 0 x).occ = .free) ∧ ((retiring .running).ctxAt 0 0).occ ≠ .free ∧
    (retiring .free).timeNs < 0 + 100000000 ∧ (base.ctxAt 0 0).task = some 0 ∧
    0 + 100000000 ≤ ((clock false true none).modMyCore fun k => { k with retiring := some ⟨0, false, 0⟩ }).timeNs := by decide +kernel

theorem witness_ReadinessAndLoss_more : (retiring .running |>.ctxAt 0 0).cm.phase ≠ .merge ∧
    (retiring .running |>.ctxAt 0 0).cm.phase ≠ .ordered ∧ DieCause.clock ≠ .supply := by decide +kernel

theorem witness_Resets : ∃ s : State, s = State.resetOf .hx920 := ⟨_, rfl⟩

theorem witness_MemoryLaws : Memory.wf [(3, 0x12), (4, 0x34)] = true ∧ Memory.wf [(4, 0x34), (3, 0x12)] = false ∧
    Memory.wf [(3, 0)] = false := by decide +kernel

theorem witness_StepAnswers : (devIs fun d => { d with sharedStop := true }).dev.sharedStop = true ∧ base.dev.sharedStop = false := by decide +kernel

theorem witness_StepKeepsMemory : Memory.wf State.reset.mem = true ∧ ∃ t, step State.reset = .next t := ⟨by decide +kernel, _, rfl⟩

/-! ### Worked examples of the spec -/

/-- R128's example: -7 divided by 2, and by 0. -/
theorem test_divide : divWord (-7) 2 = -3 ∧ remWord (-7) 2 = -1 ∧ divWord (-7) 0 = 0xFFFFFFFFFFFFFFFF ∧ remWord (-7) 0 = -7 := by
  decide +kernel
/-- The table and the example beside R110 and R111. -/
theorem test_tapered : encodeT 8 ⟨1, 0⟩ = (0x40, 0) ∧ encodeT 6 ⟨-1, 0⟩ = (0x30, 0) ∧ encodeT 12 ⟨3, 0⟩ = (0x580, 0) ∧
    (encodeT 8 ⟨17, -4⟩).1 = 0x41 ∧ narrowView 6 8 0x41 = 0x10 ∧ narrowView 6 8 0x81 = 0 := by decide +kernel
/-- R118's example: a block of 4.0, and one of 64.0. -/
theorem test_choose_scale : chooseScale [.fin false 1 2, .fin false 4 0] (.tap .t8) = 129 ∧ chooseScale [.fin false 64 0] (.tap .t8) = 133 := by
  decide +kernel
/-- R186's example. -/
theorem test_rng : rngStep 0x1234 0 = 0x6079D3C8 := by decide +kernel
/-- R242's example: the CRC of the characters 1 to 9. -/
theorem test_crc : crc32c [0x31, 0x32, 0x33, 0x34, 0x35, 0x36, 0x37, 0x38, 0x39] = 0xE3069283 := by decide +kernel
/-- R259's example: a walk of two levels. -/
theorem test_walk : ({ base with mem := [(0x100010, 0x01), (0x100011, 0x03), (0x100012, 0x20), (0x200310, 0x23), (0x200314, 0x35),
    (0x200315, 0x0A)] } : State).walk (descriptor 0x12 0x100) 0x421234 = .ok 0x0A351234 (Leaf.ofNat 0x00000A3500000023) := by decide +kernel
/-- The examples beside R197 and R231: words as the assembler writes them. -/
theorem test_decode_examples :
    (decodeBundle [0x30200000, 0x00211454, 0x00000002]).toOption.bind Bundle.single = some (.tld 4 20 21 false false 2) ∧
    (decodeBundle [0xC0400000, 0x000000F0, 0x00410518]).toOption.bind Bundle.single = some (.amo .add true .pkg 4 5 6 false false) := by
  decide +kernel
/-- The first step after a load runs the loaded bundle, MOVI s1, 5 (R135), and moves the PC past its 8 bytes. -/
def firstStep : Nat × Word × Nat :=
  match step (State.reset.withFetchWord 64 (0x01000000 + (word 0 0 0x27 1 0 1 0 1).toNat * 2 ^ 32)) with
  | .next t => (t.me.r.pc.toNat, t.me.r.s[1], (t.coreAt 0).cycle)
  | _ => (0, 0, 0)
theorem test_first_step : firstStep = (8, 5, 1) := by decide +kernel

end Sys2Proof.Tests
end

namespace Sys2Proof.Machine

/-! SUPPORT. Scalar and predicate instructions of the S class (R127 to R139): what each shared form of execution
leaves once its sources are full, and the value of each operation in the words of its rule. -/

/-! ### The shared forms with full sources (R67, R92) -/

theorem State.readS_full {s : State} {n : SReg} (h : s.FullS n) (trap : Bool) (k : Word → State) :
    s.readS n trap k = k (s.valS n) := by
  have hfull : s.me.r.isEmptyS n = false := h
  simp [State.readS, State.valS, hfull]

theorem State.readSS_full {s : State} {a b : SReg} (ha : s.FullS a) (hb : s.FullS b) (ma mb : Bool)
    (k : Word → Word → State) : s.readSS a b ma mb k = k (s.valS a) (s.valS b) := by
  rw [State.readSS, State.readS_full ha, State.readS_full hb]

/-- OP sD, sA, sB (R127, R129): an instruction of this form writes the value of its operation and nothing else. -/
theorem alu3_puts {i : Instr} {s : State} {d a b : SReg} {ma mb : Bool} {lat : Nat} {f : Word → Word → Word} {v : Word}
    (hi : exec i s = .next (alu3 s d a b ma mb lat f)) (ha : s.FullS a) (hb : s.FullS b)
    (hv : f (s.valS a) (s.valS b) = v) : Puts i s d v lat := by
  refine ⟨_, hi, ?_⟩
  rw [alu3, State.readSS_full ha hb, hv]
  exact regWriteF_writes s d v lat false 0

/-- OP sD, sA (R130). -/
theorem alu2_puts {i : Instr} {s : State} {d a : SReg} {ma : Bool} {f : Word → Word} {v : Word}
    (hi : exec i s = .next (alu2 s d a ma f)) (ha : s.FullS a) (hv : f (s.valS a) = v) : Puts i s d v 1 := by
  refine ⟨_, hi, ?_⟩
  rw [alu2, State.readS_full ha, hv]
  exact regWriteF_writes s d v 1 false 0

/-- The division group (R126, R128): a zero divisor raises DZ with the result's landing. -/
theorem divGroup_writes {i : Instr} {s : State} {d a b : SReg} {ma mb : Bool} {f : Word → Word → Word} {v : Word}
    (hi : exec i s = .next (divGroup s d a b ma mb f)) (ha : s.FullS a) (hb : s.FullS b)
    (hv : f (s.valS a) (s.valS b) = v) :
    Does i s fun t => Writes s t d v 20 true (if s.valS b = 0 then Flags.dz else 0) := by
  refine ⟨_, hi, ?_⟩
  rw [divGroup, State.readSS_full ha hb, hv]
  exact regWriteF_writes s d v 20 true _

/-! ### Results of arithmetic and shifts (R127 to R129, R133) -/

theorem shlWord_eq_mul (x y : Word) : shlWord x y = BitVec.ofNat 64 (x.toNat * 2 ^ (y.toNat % 64)) := by
  apply BitVec.eq_of_toNat_eq
  rw [shlWord, BitVec.toNat_shiftLeft, BitVec.toNat_ofNat, Nat.shiftLeft_eq]

theorem shrWord_eq_div (x y : Word) : shrWord x y = BitVec.ofNat 64 (x.toNat / 2 ^ (y.toNat % 64)) := by
  apply BitVec.eq_of_toNat_eq
  have hlt : x.toNat / 2 ^ (y.toNat % 64) < 2 ^ 64 := (Nat.div_le_self _ _).trans_lt x.isLt
  rw [shrWord, BitVec.toNat_ushiftRight, Nat.shiftRight_eq_div_pow, BitVec.toNat_ofNat, Nat.mod_eq_of_lt hlt]

theorem sraWord_eq_div (x y : Word) : sraWord x y = BitVec.ofInt 64 (x.toInt / 2 ^ (y.toNat % 64)) := by
  rw [sraWord, BitVec.sshiftRight, Int.shiftRight_eq_div_pow]
  norm_cast

theorem mul_eq_ofNat (x y : Word) : x * y = BitVec.ofNat 64 (x.toNat * y.toNat) := by
  rw [BitVec.ofNat_mul, BitVec.ofNat_toNat, BitVec.ofNat_toNat, BitVec.setWidth_eq, BitVec.setWidth_eq]

theorem remWord_eq_tmod (x y : Word) :
    remWord x y = if y = 0 then x else BitVec.ofInt 64 (Int.tmod x.toInt y.toInt) := by
  rw [remWord, Int.tmod_def]

theorem remuWord_eq_mod (x y : Word) :
    remuWord x y = if y = 0 then x else BitVec.ofNat 64 (x.toNat % y.toNat) := by
  rw [remuWord, Nat.mod_eq_sub]

theorem selWord_eq (x y : Word) : selWord x y = if y ≠ 0 then x else 0 := by
  rw [selWord, ite_not]

/-! ### Scalar arithmetic -/

/-- Settles O7: each instruction has one of the two shared forms, and its operation has the value of its rule. -/
theorem scalarArithmetic : Obligations.ScalarArithmetic := by
  refine ⟨?oneCycle, ?words, ?long⟩
  case oneCycle =>
    intro s d a b ma mb ha hb
    exact ⟨alu3_puts rfl ha hb rfl, alu3_puts rfl ha hb rfl, alu3_puts rfl ha hb rfl, alu3_puts rfl ha hb rfl,
      alu3_puts rfl ha hb rfl, alu3_puts rfl ha hb (shlWord_eq_mul _ _), alu3_puts rfl ha hb (shrWord_eq_div _ _),
      alu3_puts rfl ha hb (sraWord_eq_div _ _), alu3_puts rfl ha hb rfl, alu3_puts rfl ha hb rfl,
      alu3_puts rfl ha hb rfl, alu3_puts rfl ha hb rfl, alu3_puts rfl ha hb (selWord_eq _ _)⟩
  case words =>
    intro d a b ma mb
    exact ⟨rfl, rfl, rfl, rfl, rfl, rfl, rfl, rfl, rfl, rfl⟩
  case long =>
    intro s d a b ma mb ha hb
    exact ⟨alu3_puts rfl ha hb (mul_eq_ofNat _ _), alu3_puts rfl ha hb rfl, alu3_puts rfl ha hb rfl,
      divGroup_writes rfl ha hb rfl, divGroup_writes rfl ha hb rfl, divGroup_writes rfl ha hb (remWord_eq_tmod _ _),
      divGroup_writes rfl ha hb (remuWord_eq_mod _ _)⟩

/-! ### Bit counts, extensions and bit fields (R130 to R132) -/

theorem bits_toNat {w : Nat} (x : BitVec w) (hi lo : Nat) :
    bits x.toNat hi lo = (x.extractLsb' lo (hi + 1 - lo)).toNat := by
  rw [bits, BitVec.extractLsb'_toNat, Nat.shiftRight_eq_div_pow]

theorem signedOf_toNat {w : Nat} (n : Nat) (x : BitVec w) : signedOf n x.toNat = (x.setWidth n).toInt := by
  rw [signedOf, BitVec.toInt, BitVec.toNat_setWidth]

theorem sextWord_eq_signExtend (x : Word) (n : BitVec 6) :
    sextWord x n = (x.setWidth (n.toNat + 1)).signExtend 64 := by
  rw [sextWord, signedOf_toNat, BitVec.signExtend]

theorem zextWord_eq_setWidth (x : Word) (n : BitVec 6) :
    zextWord x n = (x.setWidth (n.toNat + 1)).setWidth 64 := by
  apply BitVec.eq_of_toNat_eq
  rw [zextWord, BitVec.toNat_ofNat, BitVec.toNat_setWidth, BitVec.toNat_setWidth]

/-- R130: with k leading zeros, bit 63 - k is the highest one, which is the binary logarithm. -/
theorem clzWord_spec (x : Word) : ∃ k : Nat, clzWord x = BitVec.ofNat 64 k ∧ (x = 0 → k = 64) ∧
    (x ≠ 0 → k < 64 ∧ 2 ^ (63 - k) ≤ x.toNat ∧ x.toNat < 2 ^ (64 - k)) := by
  refine ⟨_, rfl, fun h0 => if_pos h0, fun h0 => ?_⟩
  have hx : x.toNat ≠ 0 := fun e => h0 (BitVec.eq_of_toNat_eq e)
  have hlog : Nat.log2 x.toNat < 64 := (Nat.log2_lt hx).2 x.isLt
  have below : 63 - (63 - Nat.log2 x.toNat) = Nat.log2 x.toNat := by omega
  have above : 64 - (63 - Nat.log2 x.toNat) = Nat.log2 x.toNat + 1 := by omega
  rw [if_neg h0, below, above]
  exact ⟨by omega, Nat.log2_self_le hx, Nat.lt_log2_self⟩

/-- R130: the search from bit 0 finds the lowest one bit, and finds none in zero only. -/
theorem ctzWord_spec (x : Word) : ∃ k : Nat, ctzWord x = BitVec.ofNat 64 k ∧ (x = 0 → k = 64) ∧
    (x ≠ 0 → x.getLsbD k = true ∧ ∀ j, j < k → x.getLsbD j = false) := by
  refine ⟨_, rfl, ?zero, ?nonzero⟩
  case zero =>
    rintro rfl
    have hnone : ((List.range 64).find? fun i => (0 : Word).getLsbD i) = none := by simp
    rw [hnone, Option.getD_none]
  case nonzero =>
    intro h0
    cases hfind : (List.range 64).find? fun i => x.getLsbD i with
    | none =>
      refine absurd (BitVec.eq_of_getLsbD_eq fun i hi => ?_) h0
      simpa using List.find?_eq_none.1 hfind i (List.mem_range.2 hi)
    | some k =>
      obtain ⟨hk, -, hlow⟩ := List.find?_range_eq_some.1 hfind
      exact ⟨hk, fun j hj => by simpa using hlow j hj⟩

theorem bfxWord_eq_extract (x y : Word) : bfxWord x y =
    BitVec.ofNat 64 (x.toNat / 2 ^ (y.extractLsb' 0 6).toNat % 2 ^ min (y.extractLsb' 8 7).toNat 64) := by
  rw [bfxWord, bits_toNat, bits_toNat]

/-- R132: the bits that BFI replaces, from its second source. -/
def bfiMask (y : Word) : Word :=
  BitVec.ofNat 64 ((2 ^ min (y.extractLsb' 8 7).toNat 48 - 1) * 2 ^ (y.extractLsb' 0 6).toNat)

theorem bfiWord_eq_extract (x y : Word) : bfiWord x y = (x &&& ~~~bfiMask y) |||
    (BitVec.ofNat 64 ((y.extractLsb' 16 48).toNat * 2 ^ (y.extractLsb' 0 6).toNat) &&& bfiMask y) := by
  simp only [bfiWord, bits_toNat]
  rfl

/-- Settles O8: the counts by what they are the positions of, the rest by the value of each operation. -/
theorem scalarBitFields : Obligations.ScalarBitFields := by
  refine ⟨fun d a b ma mb => ⟨rfl, rfl, rfl, rfl, rfl⟩, fun s d a b n ma mb ha => ?_⟩
  obtain ⟨kz, hkz, leading⟩ := clzWord_spec (s.valS a)
  obtain ⟨kt, hkt, trailing⟩ := ctzWord_spec (s.valS a)
  exact ⟨⟨kz, alu2_puts rfl ha hkz, leading⟩, ⟨kt, alu2_puts rfl ha hkt, trailing⟩, alu2_puts rfl ha rfl,
    alu2_puts rfl ha (sextWord_eq_signExtend _ n), alu2_puts rfl ha (zextWord_eq_setWidth _ n), alu2_puts rfl ha rfl,
    fun hb => ⟨alu3_puts rfl ha hb (bfxWord_eq_extract _ _), alu3_puts rfl ha hb (bfiWord_eq_extract _ _)⟩⟩

/-! ### Comparisons (R136, R137) -/

theorem pcmp_putsP {s : State} {a b : SReg} (ha : s.FullS a) (hb : s.FullS b) (d : PReg) (cc : Cond) (ma mb : Bool)
    (u : Option Bool) : PutsP (.pcmp d cc a b ma mb u) s d (condHolds cc (u.getD false) (s.valS a) (s.valS b)) := by
  refine ⟨_, rfl, ?_⟩
  rw [State.readSS_full ha hb]
  exact predWrite_wrote s d _

theorem pcmpi_putsP {s : State} {a : SReg} (ha : s.FullS a) (d : PReg) (cc : Cond) (imm : CmpImm) :
    PutsP (.pcmpi d cc a imm) s d (condHolds cc (cmpImmVal imm).1 (s.valS a) (cmpImmVal imm).2) := by
  refine ⟨_, rfl, ?_⟩
  rw [State.readS_full ha]
  exact predWrite_wrote s d _

/-- R137: sign extension of an immediate keeps its signed value. -/
theorem condHolds_lt_signExtend {w : Nat} (x : Word) (v : BitVec w) (hw : w ≤ 64) :
    condHolds .lt false x (v.signExtend 64) = decide (x.toInt < v.toInt) := by
  simp only [condHolds, Bool.false_eq_true, if_false, BitVec.toInt_signExtend_of_le hw]

/-! ### Predicate logic (R138, R139) -/

theorem pred3_putsP {i : Instr} {s : State} {d a b : PReg} {f : Bool → Bool → Bool}
    (hi : exec i s = .next (pred3 s d a b f)) : PutsP i s d (f (s.me.r.getP a) (s.me.r.getP b)) :=
  ⟨_, hi, predWrite_wrote s d _⟩

theorem p6_eq_setWidth (p : PReg) : p6 p = p.setWidth 6 := (BitVec.setWidth_eq_append (by decide)).symm

theorem Regs.getP_of_ne_zero (r : Regs) {p : PReg} (h0 : p ≠ 0) : r.getP p = r.p.getLsbD p.toNat := by
  rw [Regs.getP, decide_eq_false h0, Bool.false_or]

theorem preg_toNat_ne_zero {p : PReg} (h0 : p ≠ 0) : p.toNat ≠ 0 := fun e => h0 (BitVec.eq_of_toNat_eq e)

theorem getLsbD_or_one {w : Nat} (x : BitVec w) {i : Nat} (hi : i ≠ 0) : (x ||| 1#w).getLsbD i = x.getLsbD i := by
  simp [BitVec.getLsbD_one, hi]

theorem ptsWord_getLsbD (r : Regs) (p : PReg) : (ptsWord r).getLsbD p.toNat = r.getP p := by
  have hp : p.toNat < 64 := p.isLt.trans (by decide)
  by_cases h0 : p = 0
  · subst h0; simp [ptsWord, Regs.getP]
  · rw [Regs.getP_of_ne_zero r h0, ptsWord, BitVec.getLsbD_setWidth, decide_eq_true hp, Bool.true_and]
    exact getLsbD_or_one r.p (preg_toNat_ne_zero h0)

theorem ptsWord_upper_zero (r : Regs) : (ptsWord r).extractLsb' 16 48 = 0 := by
  apply BitVec.eq_of_getLsbD_eq
  intro i hi
  simp [ptsWord]

/-- R139: what a predicate reads after PFS wrote them all; bit 0, which it sets, is not read. -/
theorem getP_pfs (r : Regs) (x : Word) {p : PReg} (h0 : p ≠ 0) :
    { r with p := x.setWidth 16 ||| 1 }.getP p = x.getLsbD p.toNat := by
  have hp : p.toNat < 16 := p.isLt
  calc { r with p := x.setWidth 16 ||| 1 }.getP p
      = (x.setWidth 16 ||| 1).getLsbD p.toNat := Regs.getP_of_ne_zero _ h0
    _ = (x.setWidth 16).getLsbD p.toNat := getLsbD_or_one _ (preg_toNat_ne_zero h0)
    _ = x.getLsbD p.toNat := by rw [BitVec.getLsbD_setWidth, decide_eq_true hp, Bool.true_and]

/-- R139: PFS changes the predicates and their ages, and nothing else of the machine but the overlay. -/
theorem pfs_writes {s : State} {m : SReg} (hm : s.FullS m) (ma : Bool) : Does (.pfs m ma) s fun t => OnlyMe s t ∧
    (∀ p : PReg, p ≠ 0 → t.me.r.getP p = (s.valS m).getLsbD p.toNat) ∧
    { t.me.r with p := s.me.r.p } = s.me.r ∧ { t.me with r := s.me.r, predAge := s.me.predAge } = s.me := by
  refine ⟨_, rfl, ?_⟩
  obtain ⟨ov, hnote⟩ := note_eq s 0xC0 (s.me.r.p.setWidth 64)
  rw [State.readS_full hm, hnote]
  have hme : ((s.modCur fun u => { u with overlay := ov }).modMe fun c =>
      { c with r := { c.r with p := (s.valS m).setWidth 16 ||| 1 } }.touchAllP).me
      = { s.me with r := { s.me.r with p := (s.valS m).setWidth 16 ||| 1 } }.touchAllP := State.me_setMe _ _
  refine ⟨onlyMe_set s _ ov, fun p h0 => ?_, ?_, ?_⟩
  · rw [hme]; exact getP_pfs s.me.r (s.valS m) h0
  · rw [hme]; rfl
  · rw [hme]; rfl

theorem pts_puts (s : State) (n : SReg) : Puts (.pts n) s n (ptsWord s.me.r) 1 :=
  ⟨_, rfl, regWriteF_writes s n _ 1 false 0⟩

theorem enc3_p6 (op : BitVec 7) (d a b : PReg) :
    enc3 0 op (p6 d) (p6 a) (p6 b) false false
      = some ⟨0, op, d.setWidth 6, a.setWidth 6, b.setWidth 6, false, false, []⟩ := by
  simp only [enc3, p6_eq_setWidth]

/-- Settles O11: the comparisons by the condition they evaluate, predicate logic by the predicates read before it. -/
theorem predicates : Obligations.Predicates := by
  refine ⟨?compare, ?logic⟩
  case compare =>
    intro s d a b ma mb v w ha
    refine ⟨fun hb => ?registers, pcmpi_putsP ha d .eq _, ?shortLt, pcmpi_putsP ha d .ne _, ?longLt,
      pcmpi_putsP ha d .le _⟩
    case registers =>
      exact ⟨pcmp_putsP ha hb d .eq ma mb none, pcmp_putsP ha hb d .ne ma mb none, pcmp_putsP ha hb d .lt ma mb none,
        pcmp_putsP ha hb d .le ma mb none, pcmp_putsP ha hb d .lt ma mb (some true),
        pcmp_putsP ha hb d .le ma mb (some true), pcmp_putsP ha hb d .lt ma mb (some false)⟩
    case shortLt => rw [← condHolds_lt_signExtend _ v (by decide)]; exact pcmpi_putsP ha d .lt (.short v)
    case longLt => rw [← condHolds_lt_signExtend _ w (by decide)]; exact pcmpi_putsP ha d .lt (.word false w)
  case logic =>
    intro s d a b n m ma
    exact ⟨pred3_putsP rfl, pred3_putsP rfl, pred3_putsP rfl, pred3_putsP (f := fun x y => x && !y) rfl,
      ⟨enc3_p6 _ d a b, enc3_p6 _ d a b, enc3_p6 _ d a b, enc3_p6 _ d a b⟩,
      ⟨_, pts_puts s n, ptsWord_upper_zero s.me.r, ptsWord_getLsbD s.me.r⟩, fun hm => pfs_writes hm ma⟩

end Sys2Proof.Machine

namespace Sys2Proof.Machine

/-! SUPPORT. Masks and extraction (R169, R171, R172, R175): what a mask and a scalar result of a V pipe leave behind, the bits
of the masks the instructions compute, and which bits of a mask KPOPC and KTOP look at. -/

/-! ### Slab sources (R53, R67) -/

theorem State.readV_full {s : State} {f : VField} {q : Nat} (h : s.FullV f q) (trap : Bool) (k : Nat → State) :
    s.readV f trap k = k q := by
  obtain ⟨hq, hpart, hfull⟩ := h
  simp only [State.readV, hq, not_le.2 hpart, hfull, if_false, Bool.false_eq_true]

theorem length_elems (w : Nat) : ∀ (n : Nat) (bs : List Byte), (elems w n bs).length = n
  | 0, _ => rfl
  | n + 1, bs => by rw [elems, List.length_cons, length_elems w n]

@[simp] theorem State.length_shapeElems (s : State) (q : Nat) : (s.shapeElems q).length = s.shape.count :=
  length_elems _ _ _

/-- The elements of two slabs side by side are those of each index below E. -/
theorem State.zipWith_shapeElems {α : Type} (s : State) (g : Nat → Nat → α) (qa qb : Nat) :
    (s.shapeElems qa).zipWith g (s.shapeElems qb)
      = (List.range s.shape.count).map fun k => g (s.elem qa k) (s.elem qb k) := by
  refine List.ext_getElem (by simp) fun k hk _ => ?_
  have hcount : k < s.shape.count := by simpa using hk
  simp [State.elem, List.getD_eq_getElem?_getD, hcount]

/-! ### The bits of masks (R54, R169) -/

theorem getLsbD_belowE {i : Nat} (hi : i < 2048) (e : Nat) : (belowE e).getLsbD i = decide (i < e) := by
  rw [belowE, BitVec.getLsbD_ofNat, decide_eq_true hi, Bool.true_and, Nat.testBit_two_pow_sub_one]

theorem boolNat_add_eq_bit (b : Bool) (m : Nat) : boolNat b + 2 * m = Nat.bit b m := by
  cases b <;> simp [boolNat, Nat.bit_val, Nat.add_comm]

theorem testBit_foldr_boolNat (bs : List Bool) :
    ∀ i, (bs.foldr (fun b m => boolNat b + 2 * m) 0).testBit i = bs.getD i false := by
  induction bs with
  | nil => simp
  | cons b bs ih =>
    intro i
    rw [List.foldr_cons, boolNat_add_eq_bit]
    cases i with
    | zero => exact Nat.testBit_bit_zero b _
    | succ i => rw [Nat.testBit_bit_succ, ih, List.getD_cons_succ]

/-- R169: bit i of the mask of the values f has below e. -/
theorem getLsbD_maskOfList_range {i : Nat} (hi : i < 2048) (e : Nat) (f : Nat → Bool) :
    (maskOfList ((List.range e).map f)).getLsbD i = (decide (i < e) && f i) := by
  rw [maskOfList, BitVec.getLsbD_ofNat, decide_eq_true hi, Bool.true_and, testBit_foldr_boolNat]
  by_cases h : i < e <;> simp [List.getD_eq_getElem?_getD, h]

theorem Regs.getK_putK_same (r : Regs) {d : KReg} (h0 : d ≠ 0) (v : BitVec 2048) : (r.putK d v).getK d = v := by
  simp only [Regs.putK, Regs.getK, h0, if_false, Vector.getElem_set_self]

theorem Regs.getK_putK_ne (r : Regs) {d k : KReg} (h : k ≠ d) (v : BitVec 2048) : (r.putK d v).getK k = r.getK k := by
  have hne : d.toNat ≠ k.toNat := fun e => h (BitVec.eq_of_toNat_eq e.symm)
  by_cases h0 : d = 0
  · rw [Regs.putK, if_pos h0]
  · simp only [Regs.putK, Regs.getK, h0, if_false, Vector.getElem_set_ne _ _ hne]

/-- R52: a write to k0 is discarded. -/
theorem Regs.putK_zero (r : Regs) (v : BitVec 2048) : r.putK 0 v = r := if_pos rfl

/-! ### Flags and index registers around a mask (R55, R119) -/

theorem Regs.raiseFlags_zero (r : Regs) (addr : BitVec 16) (pos : BitVec 3) (lat : Bool) (ev : Nat × Nat) :
    r.raiseFlags addr pos 0 lat ev = r := by
  simp [Regs.raiseFlags, Regs.recordEvent]

theorem stepIxs_eq (js : List IxReg) (r : Regs) : stepIxs r js = { r with ix := (stepIxs r js).ix } :=
  congrArg (fun q : Regs => { q with ix := (stepIxs r js).ix }) (stepIxs_regs js r)

theorem stepIxs_getAt (js : List IxReg) (r : Regs) (sh : Bool) (n : SReg) : (stepIxs r js).getAt sh n = r.getAt sh n := by
  rw [stepIxs_eq]; rfl

theorem stepIxs_emptyAt (js : List IxReg) (r : Regs) (sh : Bool) (n : SReg) :
    (stepIxs r js).emptyAt sh n = r.emptyAt sh n := by
  rw [stepIxs_eq]; rfl

theorem stepIxs_isEmptyS (js : List IxReg) (r : Regs) (n : SReg) : (stepIxs r js).isEmptyS n = r.isEmptyS n := by
  rw [stepIxs_eq]; rfl

/-- Post-increments move the index registers alone, so what a state says of its scalar registers stays. -/
theorem otherScalars_stepIxs {s t u : State} {d : SReg} {js : List IxReg} (hr : t.me.r = stepIxs u.me.r js)
    (hu : OtherScalars s u d) : OtherScalars s t d := by
  obtain ⟨plain, shadow⟩ := hu
  constructor
  · intro n hn; rw [hr, stepIxs_getAt, stepIxs_emptyAt]; exact plain n hn
  · intro n h56 hn; rw [hr, stepIxs_getAt, stepIxs_emptyAt]; exact shadow n h56 hn

/-- A mask write and the flags it raises change the masks, FFLAGS and the record of the first event. -/
theorem Regs.raiseFlags_putK (r : Regs) (d : KReg) (v : BitVec 2048) (addr : BitVec 16) (pos : BitVec 3) (fl : Flags)
    (ev : Nat × Nat) : ∃ ferec evAt, (r.putK d v).raiseFlags addr pos fl true ev = { r with
      k := (r.putK d v).k, fflags := r.fflags ||| (fl.setWidth 64 <<< (5 * pos.toNat)), ferec := ferec, evAt := evAt } := by
  refine ⟨((r.putK d v).recordEvent addr pos fl true ev).ferec, ((r.putK d v).recordEvent addr pos fl true ev).evAt, ?_⟩
  unfold Regs.raiseFlags Regs.recordEvent Regs.putK
  split <;> split <;> rfl

/-! ### After a slot of a V pipe (R161, R169) -/

@[simp] theorem State.me_takePipe (s : State) (occ : Nat) : (s.takePipe occ).me = s.me := by
  simp [State.takePipe, State.me, State.modMyCore, State.modCore, State.ctxAt, Core.ctxAt]

@[simp] theorem State.now_takePipe (s : State) (occ : Nat) : (s.takePipe occ).now = s.now := by
  simp [State.takePipe, State.now, State.myCore, State.modMyCore, State.modCore]

/-- The context with its checkpointed registers replaced. -/
def Ctx.withRegs (v : Ctx) (r : Regs) : Ctx := { v with r := r }

@[simp] theorem Ctx.withRegs_r (v : Ctx) (r : Regs) : (v.withRegs r).r = r := rfl

/-- The state behind a slot that took its pipe for occ cycles, stalled its bundle for n, and left its context as v and the
overlay as ov. -/
def State.afterSlot (s : State) (occ n : Nat) (v : Ctx) (ov : List (Byte × Word)) : State :=
  ((s.takePipe occ).setMe v).modCur fun u => { u with cost := u.cost + n, late := u.late + n, overlay := ov }

section AfterSlot
variable (s : State) (occ n : Nat) (v : Ctx) (ov : List (Byte × Word))

@[simp] theorem State.me_afterSlot : (s.afterSlot occ n v ov).me = v := State.me_setMe _ _

@[simp] theorem State.cost_afterSlot : (s.afterSlot occ n v ov).cur.cost = s.cur.cost + n := rfl

theorem State.afterSlot_rest : { s.afterSlot occ n v ov with cores := s.cores, cur := s.cur } = s := rfl

theorem State.afterSlot_bytes (a : Nat) : (s.afterSlot occ n v ov).byteAt a = s.byteAt a := rfl

theorem State.afterSlot_pipeTaken : PipeTaken s (s.afterSlot occ n v ov) occ := by
  constructor <;>
    simp [State.afterSlot, State.takePipe, State.myCore, State.setMe, State.modMyCore, State.modCore, Core.setCtx]

theorem State.afterSlot_onlyMyCore : OnlyMyCore s (s.afterSlot occ 0 v ov) := by
  have e : s.afterSlot occ 0 v ov
      = (s.setCore s.cur.core ((s.takePipe occ).myCore.setCtx s.cur.ctx v)).modCur fun u => { u with overlay := ov } := by
    simp [State.afterSlot, State.takePipe, State.setMe, State.setCtx, State.modMyCore, State.modCore, State.myCore]
  rw [e]
  refine onlyMyCore_set s _ v ov ?_
  simp [State.takePipe, State.myCore, State.modMyCore, State.modCore]

/-- The post-increments end the slot. -/
theorem State.postInc_eq_afterSlot (fields : List VField) : ∃ ov,
    (((s.takePipe occ).stallSlots n).setMe v).postInc fields
      = s.afterSlot occ n (v.withRegs (stepIxs v.r (incsOf fields))) ov := by
  obtain ⟨ov, e⟩ := postInc_eq fields (((s.takePipe occ).stallSlots n).setMe v)
  refine ⟨ov, ?_⟩
  rw [e, State.me_setMe, State.setMe_setMe]
  rfl

theorem State.afterSlot_stepped {s : State} {fields : List VField} {r : Regs} (hr : v.r = stepIxs r (incsOf fields))
    (hix : r.ix = s.me.r.ix) : Stepped s (s.afterSlot occ n v ov) fields := by
  intro j
  have hget : r.getIx j = s.me.r.getIx j := by rw [Regs.getIx, hix]; rfl
  rw [State.me_afterSlot, hr, ← hget]
  exact stepIxs_getIx _ _ (incsOf_nodup _) j

end AfterSlot

/-! ### Masks written (R169, R171) -/

/-- R169: a mask written at the end of its bundle's stall, while no flag of it can trap. -/
theorem vecMask_eq_afterSlot (s : State) (fields : List VField) (d : KReg) (v : BitVec 2048) (lat occ : Nat)
    (fl : Option Flags) (h : fl = none ∨ s.Imprecise) : ∃ ov ev, s.vecMask fields d v lat occ fl =
      s.afterSlot occ (lat - 1) (s.me.withRegs
        (stepIxs ((s.me.r.putK d v).raiseFlags s.cur.addr s.cur.pos (fl.getD 0) true ev) (incsOf fields))) ov := by
  have calm : ¬ ((s.takePipe occ).me.r.ten ≠ 0 ∧ fl.isSome = true) := by
    rintro ⟨hten, hsome⟩
    rcases h with rfl | h
    · cases hsome
    · exact hten (by rw [State.me_takePipe]; exact h)
  have hme : ((s.takePipe occ).stallSlots (lat - 1)).me = s.me := State.me_takePipe s occ
  let ev := (((s.takePipe occ).stallSlots (lat - 1)).now + 1, s.me.seq)
  obtain ⟨ov, e⟩ := s.postInc_eq_afterSlot occ (lat - 1)
    (s.me.withRegs ((s.me.r.putK d v).raiseFlags s.cur.addr s.cur.pos (fl.getD 0) true ev)) fields
  refine ⟨ov, ev, ?_⟩
  simp only [State.vecMask, if_neg calm, State.modRegs, State.modMe, hme]
  exact e

/-- What a V slot leaves that writes the mask v, whose bits are those of f below E. -/
theorem vecMask_wrote {s : State} {d : KReg} {v : BitVec 2048} {f : Nat → Bool} {fl : Option Flags}
    (hv : ∀ i, i < 2048 → v.getLsbD i = (decide (i < s.shape.count) && f i)) (h : fl = none ∨ s.Imprecise)
    (fields : List VField) (lat occ : Nat) : MaskWrote s (s.vecMask fields d v lat occ fl) fields d f occ ∧
      (s.vecMask fields d v lat occ fl).cur.cost = s.cur.cost + (lat - 1) ∧
      (s.vecMask fields d v lat occ fl).me.r.fflags
        = s.me.r.fflags ||| ((fl.getD 0).setWidth 64 <<< (5 * s.cur.pos.toNat)) := by
  obtain ⟨ov, ev, e⟩ := vecMask_eq_afterSlot s fields d v lat occ fl h
  obtain ⟨ferec, evAt, hr⟩ := s.me.r.raiseFlags_putK d v s.cur.addr s.cur.pos (fl.getD 0) ev
  generalize (s.me.r.putK d v).raiseFlags s.cur.addr s.cur.pos (fl.getD 0) true ev = r at e hr
  have hk : ∀ k, (stepIxs r (incsOf fields)).getK k = (s.me.r.putK d v).getK k := by
    intro k; rw [stepIxs_eq, hr]; rfl
  rw [e]
  refine ⟨?_, State.cost_afterSlot .., by rw [State.me_afterSlot, Ctx.withRegs_r, stepIxs_eq, hr]⟩
  constructor
  case value => intro h0 i hi; rw [State.me_afterSlot, Ctx.withRegs_r, hk, Regs.getK_putK_same _ h0, hv i hi]
  case discarded => rintro rfl; rw [State.me_afterSlot, Ctx.withRegs_r, stepIxs_eq, hr, Regs.putK_zero]
  case others => intro k hne; rw [State.me_afterSlot, Ctx.withRegs_r, hk, Regs.getK_putK_ne _ hne]
  case scalars => rw [State.me_afterSlot, Ctx.withRegs_r, stepIxs_eq, hr]; exact ⟨rfl, rfl, rfl, rfl⟩
  case index => exact State.afterSlot_stepped _ _ _ _ rfl (by rw [hr])
  case pipe => exact State.afterSlot_pipeTaken ..
  case results => rw [State.me_afterSlot]; exact ⟨rfl, rfl, rfl⟩
  case rest => exact State.afterSlot_rest ..
  case bytes => exact State.afterSlot_bytes s _ _ _ _

/-- R171: a mask operation is a mask write without sources, stall or flags. -/
theorem maskOp_eq_vecMask (s : State) (d : KReg) (v : BitVec 2048) :
    s.maskOp d v = s.vecMask [] d (v &&& belowE s.shape.count) 1 1 none := by
  have hshape : (s.takePipe 1).shape = s.shape := by rw [State.shape, State.me_takePipe]; rfl
  simp only [State.maskOp, State.vecNow, State.vecMask, Option.isSome_none, Bool.false_eq_true, and_false, if_false,
    Option.getD_none, Regs.raiseFlags_zero, hshape]
  rfl

/-- R171: what a mask operation leaves that computes the bits of f. -/
theorem maskOp_wrote {i : Instr} {s : State} {d : KReg} {v : BitVec 2048} {f : Nat → Bool}
    (hi : exec i s = .next (s.maskOp d v)) (hv : ∀ k, k < 2048 → v.getLsbD k = f k) :
    Does i s fun t => MaskWrote s t [] d f 1 ∧ t.cur = s.cur ∧ t.me.r.fflags = s.me.r.fflags := by
  have bits : ∀ k, k < 2048 → (v &&& belowE s.shape.count).getLsbD k = (decide (k < s.shape.count) && f k) := by
    intro k hk; rw [BitVec.getLsbD_and, hv k hk, getLsbD_belowE hk, Bool.and_comm]
  obtain ⟨wrote, -, hfl⟩ := vecMask_wrote bits (fl := none) (.inl rfl) [] 1 1
  rw [← maskOp_eq_vecMask] at wrote hfl
  exact ⟨_, hi, wrote, rfl, by simpa using hfl⟩

/-! ### VCMP (R169) -/

theorem elemCond_int {t : ElemTy} (h : tyFp t = false) (cc : VCond) (x y : Nat) :
    elemCond t cc x y = (intCond cc (tyVal t x) (tyVal t y), 0) := by
  simp [elemCond, h]

theorem elemCond_fp {t : ElemTy} (h : tyFp t = true) (cc : VCond) (x y : Nat) :
    elemCond t cc x y = fpCond (tyPrec t) cc x y := if_pos h

/-- VCMP of two full slabs writes the condition of each pair of elements, with the flags of all of them on a floating-point
type. -/
theorem execVcmp_full {s : State} {a b : VField} {qa qb : Nat} (ha : s.FullV a qa) (hb : s.FullV b qb) (d : KReg)
    (cc : VCond) (ma mb : Bool) : exec (.vcmp d cc a b ma mb) s = .next (
      let t := s.shape.ty
      let n := passes s.shape.count (tyWidth t)
      let cond (k : Nat) : Bool × Flags := elemCond t cc (s.elem qa k) (s.elem qb k)
      s.vecMask [a, b] d (maskOfList ((List.range s.shape.count).map fun k => (cond k).1)) (depth24 t + n - 1) n
        (if tyFp t then some ((List.range s.shape.count).foldl (fun f k => f ||| (cond k).2) 0) else none)) := by
  show execVcmp d cc a b ma mb s = _
  simp only [execVcmp, State.readV_full ha, State.readV_full hb, State.zipWith_shapeElems, List.map_map, List.foldl_map]
  rfl

/-- R162, R169: what VCMP of two full slabs leaves, while no flag of it can trap: cond gives the condition of each index and
its flags. -/
theorem vcmp_wrote {s : State} {a b : VField} {qa qb : Nat} {cc : VCond} {cond : Nat → Bool × Flags} (ha : s.FullV a qa)
    (hb : s.FullV b qb) (hcond : ∀ k, elemCond s.shape.ty cc (s.elem qa k) (s.elem qb k) = cond k)
    (h : tyFp s.shape.ty = false ∨ s.Imprecise) (d : KReg) (ma mb : Bool) :
    let n := passes s.shape.count (tyWidth s.shape.ty)
    let fl : Flags := if tyFp s.shape.ty then (List.range s.shape.count).foldl (fun f k => f ||| (cond k).2) 0 else 0
    Does (.vcmp d cc a b ma mb) s fun t => MaskWrote s t [a, b] d (fun k => (cond k).1) n ∧
      t.cur.cost = s.cur.cost + (n + depth24 s.shape.ty - 1 - 1) ∧
      t.me.r.fflags = s.me.r.fflags ||| (fl.setWidth 64 <<< (5 * s.cur.pos.toNat)) := by
  intro n fl
  have hcalm : (if tyFp s.shape.ty then some ((List.range s.shape.count).foldl (fun f k => f ||| (cond k).2) 0) else none)
      = none ∨ s.Imprecise := h.imp_left fun hint => by rw [hint]; rfl
  obtain ⟨wrote, hcost, hfl⟩ := vecMask_wrote (d := d) (fun i hi =>
    getLsbD_maskOfList_range hi s.shape.count fun k => (cond k).1) hcalm [a, b] (depth24 s.shape.ty + n - 1) n
  obtain rfl : (fun k => elemCond s.shape.ty cc (s.elem qa k) (s.elem qb k)) = cond := funext hcond
  refine ⟨_, execVcmp_full ha hb d cc ma mb, wrote, ?_, ?_⟩
  · rw [Nat.add_comm n]; exact hcost
  · rw [apply_ite (Option.getD · 0)] at hfl; exact hfl

/-! ### Scalar results (R162) -/

/-- R52: s0 is never empty. -/
theorem Regs.markEmpty_zero (r : Regs) : r.markEmpty 0 = r := by
  simp [Regs.markEmpty, Regs.isShadow]

theorem Regs.markEmpty_ix (r : Regs) (d : SReg) : (r.markEmpty d).ix = r.ix := by
  have h := congrArg Regs.ix (Regs.markEmpty_regs r d)
  exact h

/-- R92: a result of more than one cycle for sD: its register is empty, and it is outstanding; s0 takes neither. -/
theorem regWriteF_late (s : State) (d : SReg) (v : Word) {lat : Nat} (hlat : 1 < lat) (fp : Bool) : ∃ w : Ctx,
    s.regWriteF d v lat fp 0 = s.setMe w ∧ w.r = s.me.r.markEmpty d ∧ (d = 0 → w.pend = s.me.pend) ∧
    (d ≠ 0 → ∃ due, due = max (s.now + lat) (s.me.sregAfter (s.me.r.isShadow d) d) ∧ w.pend = s.me.pend ++
      [⟨s.me.seq, due, due, s.me.region, s.cur.pos, s.cur.addr, fp, 0, .sreg (s.me.r.isShadow d) d v⟩]) := by
  have slow : (decide (lat ≤ 1) && !s.me.sregPending (s.me.r.isShadow d) d) = false := by simp [hlat]
  by_cases h0 : d = 0
  · subst h0
    refine ⟨s.me, ?_, (Regs.markEmpty_zero _).symm, fun _ => rfl, fun h => absurd rfl h⟩
    have stays : s.regWriteF 0 v lat fp 0 = s := by simp only [State.regWriteF, slow]; rfl
    rw [stays]
    exact (State.setCtx_ctxAt s _ _).symm
  · simp only [State.regWriteF, slow, decide_eq_false h0, Bool.false_and, Bool.false_eq_true, if_false, State.modRegs,
      State.modMe, State.addPend_setMe]
    exact ⟨_, rfl, rfl, fun h => absurd h h0, fun _ => ⟨_, rfl, rfl⟩⟩

/-- R162: a scalar result of a V slot lands three cycles after issue and takes the pipe for one. -/
theorem vecScalar_scalarFromV (s : State) (fields : List VField) (d : SReg) (v : Word) (fp : Bool) :
    ScalarFromV s (s.vecScalar fields d v fp) fields d v fp := by
  obtain ⟨w, hw, hr, hzero, hlate⟩ := regWriteF_late (s.takePipe 1) d v (lat := 3) (by decide) fp
  rw [State.me_takePipe] at hr hzero hlate
  rw [State.now_takePipe] at hlate
  obtain ⟨ov, e⟩ := s.postInc_eq_afterSlot 1 0 w fields
  have out : s.vecScalar fields d v fp = s.afterSlot 1 0 (w.withRegs (stepIxs w.r (incsOf fields))) ov := by
    rw [← e, State.vecScalar, hw]; rfl
  have marked : (s.setMe (s.me.withRegs w.r)).me.r = s.me.r.markEmpty d := by rw [State.me_setMe]; exact hr
  have hregs : (s.afterSlot 1 0 (w.withRegs (stepIxs w.r (incsOf fields))) ov).me.r
      = stepIxs (s.setMe (s.me.withRegs w.r)).me.r (incsOf fields) := by
    rw [State.me_afterSlot, State.me_setMe]; rfl
  rw [out]
  refine { toOnlyMyCore := State.afterSlot_onlyMyCore .., toOtherScalars := ?others, late := ?late, zero := ?zero,
           index := State.afterSlot_stepped _ _ _ _ rfl ?ix, pipe := State.afterSlot_pipeTaken .. }
  case others => exact otherScalars_stepIxs hregs (otherScalars_mark s _ d marked)
  case late =>
    intro h0
    refine ⟨?_, by rw [State.me_afterSlot]; exact hlate h0⟩
    rw [State.FullS, State.me_afterSlot, Ctx.withRegs_r, stepIxs_isEmptyS, hr, Regs.isEmptyS_markEmpty _ _ h0]
    decide
  case zero => intro h0; rw [State.me_afterSlot]; exact hzero h0
  case ix => rw [hr, Regs.markEmpty_ix]

/-! ### The bits of a mask that KPOPC and KTOP look at (R172) -/

theorem mem_setBits {n : Nat} {m : BitVec 2048} {i : Nat} : i ∈ setBits n m ↔ i < n ∧ m.getLsbD i = true := by
  simp [setBits]

theorem setBits_lt {n : Nat} {m : BitVec 2048} {i : Nat} (h : i ∈ setBits n m) : i < 2048 := by
  by_contra hge
  have hset := (mem_setBits.1 h).2
  rw [BitVec.getLsbD_of_ge m i (not_lt.1 hge)] at hset
  cases hset

/-- The set bits come in rising order, so the last of them is the highest. -/
theorem le_getLast_setBits {n : Nat} {m : BitVec 2048} {i j : Nat} (hlast : (setBits n m).getLast? = some i)
    (hj : j ∈ setBits n m) : j ≤ i := by
  obtain ⟨front, hfront⟩ := List.getLast?_eq_some_iff.1 hlast
  have rising : (setBits n m).Pairwise (· < ·) := List.pairwise_lt_range.filter _
  rw [hfront] at rising hj
  rcases List.mem_append.1 hj with hj | hj
  · obtain ⟨-, -, cross⟩ := List.pairwise_append.1 rising
    exact (cross j hj i (List.mem_singleton_self i)).le
  · exact (List.mem_singleton.1 hj).le

/-- R172: the value of KTOP. -/
def topBit (n : Nat) (m : BitVec 2048) : Word :=
  match (setBits n m).getLast? with
  | some i => BitVec.ofNat 64 i
  | none => BitVec.allOnes 64

theorem execKtop_eq (d : SReg) (a : KReg) (s : State) : exec (.ktop d a) s =
    .next (s.vecScalar [] d (topBit s.shape.count (s.me.r.getK a)) (tyFp s.shape.ty)) := rfl

theorem topBit_of_empty {n : Nat} {m : BitVec 2048} (h : setBits n m = []) : topBit n m = BitVec.allOnes 64 := by
  rw [topBit, h]; rfl

/-- With a bit set below n, KTOP gives the highest. -/
theorem topBit_highest {n : Nat} {m : BitVec 2048} (h : setBits n m ≠ []) :
    (topBit n m).toNat ∈ setBits n m ∧ ∀ i ∈ setBits n m, i ≤ (topBit n m).toNat := by
  have hlast := List.getLast?_eq_some_getLast h
  have hmem := List.getLast_mem h
  have hval : (topBit n m).toNat = (setBits n m).getLast h := by
    have hlt := setBits_lt hmem
    simp only [topBit, hlast, BitVec.toNat_ofNat]
    omega
  rw [hval]
  exact ⟨hmem, fun i hi => le_getLast_setBits hlast hi⟩

/-! ### Masks and extraction -/

theorem k6_eq_setWidth (k : KReg) : k6 k = k.setWidth 6 := (BitVec.setWidth_eq_append (by decide)).symm

theorem enc3_words (op : BitVec 7) {d a b d' a' b' : BitVec 6} (hd : d = d') (ha : a = a') (hb : b = b') :
    enc3 2 op d a b false false = some ⟨2, op, d', a', b', false, false, []⟩ := by
  rw [enc3, hd, ha, hb]

/-- VEXTR of a full slab and a full index register. -/
theorem execVextr_full {s : State} {a : VField} {c : SReg} {qa : Nat} (ha : s.FullV a qa) (hc : s.FullS c) (d : SReg)
    (ma mb : Bool) : exec (.vextr d a c ma mb) s = .next (s.check (decide ((s.valS c).toNat < s.shape.count)) .illegalOperand
      (s.vecScalar [a] d (BitVec.ofInt 64 (tyVal s.shape.ty (s.elem qa (s.valS c).toNat))) (tyFp s.shape.ty))) := by
  show execVextr d a c ma mb s = _
  rw [execVextr, State.readV_full ha, State.readS_full hc]
  rfl

/-- Settles O35: masks through what a mask write leaves, the rest through what a scalar result leaves. -/
theorem masksAndExtracts : Obligations.MasksAndExtracts := by
  intro s dk k1 k2 d c cc a b ma mb qa qb ha hb hc
  refine ⟨fun hint => ?vcmpInt, fun hfp himp => ?vcmpFp, ?words, ?kand, ?kor, ?kxor, ?knot, ?kpopc, ?ktop,
    fun hlt => ?vextr, fun hge htrap => ?vextrBeyond⟩
  case vcmpInt =>
    obtain ⟨t, ht, wrote, hcost, hfl⟩ := vcmp_wrote ha hb (fun k => elemCond_int hint cc _ _) (.inl hint) dk ma mb
    rw [depth24, hint] at hcost
    exact ⟨t, ht, wrote, hcost, by simpa [hint] using hfl⟩
  case vcmpFp =>
    obtain ⟨t, ht, wrote, hcost, hfl⟩ := vcmp_wrote ha hb (fun k => elemCond_fp hfp cc _ _) (.inr himp) dk ma mb
    rw [depth24, hfp] at hcost
    rw [hfp] at hfl
    exact ⟨t, ht, wrote, hcost, hfl⟩
  case words =>
    have h6 := k6_eq_setWidth
    exact ⟨enc3_words _ (h6 dk) (h6 k1) (h6 k2), enc3_words _ (h6 dk) (h6 k1) (h6 k2), enc3_words _ (h6 dk) (h6 k1) (h6 k2),
      enc3_words _ (h6 dk) (h6 k1) rfl, enc3_words _ rfl (h6 k1) rfl, enc3_words _ rfl (h6 k1) rfl⟩
  case kand => exact maskOp_wrote rfl fun k _ => BitVec.getLsbD_and ..
  case kor => exact maskOp_wrote rfl fun k _ => BitVec.getLsbD_or ..
  case kxor => exact maskOp_wrote rfl fun k _ => BitVec.getLsbD_xor ..
  case knot => exact maskOp_wrote rfl fun k hk => by rw [BitVec.getLsbD_not, decide_eq_true hk, Bool.true_and]
  case kpopc => exact ⟨_, rfl, vecScalar_scalarFromV ..⟩
  case ktop =>
    exact ⟨_, ⟨_, execKtop_eq d k1 s, vecScalar_scalarFromV ..⟩, topBit_of_empty, topBit_highest⟩
  case vextr =>
    refine ⟨_, execVextr_full ha hc d ma mb, ?_⟩
    rw [State.check, decide_eq_true hlt, if_pos rfl]
    exact vecScalar_scalarFromV ..
  case vextrBeyond =>
    refine ⟨_, execVextr_full ha hc d ma mb, ?_⟩
    rw [State.check, decide_eq_false (not_lt.2 hge)]
    exact trapSlot_took s .illegalOperand htrap

end Sys2Proof.Machine
